-- ==== Sys2Proof/Word.lean ====
section
/-! DEFINITION. The two word widths of the block: every datum is one byte, every command, stimulus
and response is one 32-bit word (spec 00_scope.md R9, 20_memory.md R80). -/

namespace Sys2Proof

/-- A datum of the block (R9). -/
abbrev Byte := BitVec 8

/-- A command word, a stimulus word or a response word; bit 31 is the most significant (R80, R90). -/
abbrev Word := BitVec 32

end Sys2Proof
end

