-- ==== Sys2Proof/Syntax.lean ====
section
/-! DEFINITION. The instructions: one constructor for each row of spec/opcode_table.json
(30_encoding.md R94 to R98). Operands that the spec treats as numbers (`BAUD`, `CAP`, `COUNT`; R10, R93)
are natural numbers, bounded by `Instr.wellFormed`; operands it treats as bits are bit vectors. -/

namespace Sys2Proof

/-- Who issues a word (R91). The Dispatcher issues none (R111). -/
inductive Origin where
  | host
  | line
  | bus
  deriving DecidableEq, Repr

/-- Host commands (`SYS`, `UART`, `TWI`) and stimuli (`LINE`, `BUS`). -/
inductive Instr where
  /-- `SYS_CLI`, R115 -/
  | sysCli
  /-- `SYS_SEI`, R116 -/
  | sysSei
  /-- `UART_BEGIN`, R127 -/
  | uartBegin (frame : BitVec 4) (baud : Nat)
  /-- `UART_END`, R128 -/
  | uartEnd
  /-- `UART_AVAILABLE`, R129 -/
  | uartAvailable
  /-- `UART_PEEK`, R130 -/
  | uartPeek
  /-- `UART_READ`, R131 -/
  | uartRead
  /-- `UART_WRITE`, R132 -/
  | uartWrite (data : Byte)
  /-- `UART_FLUSH`, R133 -/
  | uartFlush
  /-- `TWI_BEGIN`, R170 -/
  | twiBegin (own : Byte) (speed : BitVec 4) (cap : Nat)
  /-- `TWI_BEGIN_TX`, R171 -/
  | twiBeginTx (addr : Byte)
  /-- `TWI_WRITE`, R172 -/
  | twiWrite (data : Byte)
  /-- `TWI_END_TX`, R173 -/
  | twiEndTx (count : Nat)
  /-- `TWI_REQUEST`, R174 -/
  | twiRequest (addr : Byte) (count : Nat)
  /-- `TWI_AVAILABLE`, R175 -/
  | twiAvailable
  /-- `TWI_READ`, R176 -/
  | twiRead
  /-- `TWI_PEEK`, R177 -/
  | twiPeek
  /-- `TWI_FLUSH`, R178 -/
  | twiFlush
  /-- `TWI_READY`, R179 -/
  | twiReady
  /-- `TWI_RESULT`, R180 -/
  | twiResult
  /-- `TWI_WRERR`, R181 -/
  | twiWrerr
  /-- `EV_RX_BYTE`, R150 -/
  | evRxByte (data : Byte)
  /-- `EV_RX_SPURIOUS`, R151 -/
  | evRxSpurious
  /-- `EV_TX_SHIFT_DONE`, R152 -/
  | evTxShiftDone
  /-- `EV_CTS`, R153 -/
  | evCts (level : Bool)
  /-- `EV_TWI_ACK`, R196 -/
  | evTwiAck
  /-- `EV_TWI_NACK`, R197 -/
  | evTwiNack
  /-- `EV_TWI_RXBYTE`, R198 -/
  | evTwiRxbyte (data : Byte)
  /-- `EV_TWI_ARBLOST`, R199 -/
  | evTwiArblost
  /-- `EV_TWI_BUSERR`, R200 -/
  | evTwiBuserr
  /-- `EV_TWI_BUS_IDLE`, R201 -/
  | evTwiBusIdle
  deriving DecidableEq, Repr

end Sys2Proof
end

