-- ==== Sys2Proof/WellFormed.lean ====
section
/-! DEFINITION. Which terms of `Instr` have an encoding: the numeric operands fit their fields
(30_encoding.md R92, R93). Whether a value is legal is decided when the command executes, never here (R93). -/

namespace Sys2Proof

/-- The operand ranges of R93: `BAUD` has 20 bits, `CAP` and `COUNT` have 12. -/
def Instr.wellFormed : Instr → Bool
  | .uartBegin _ baud => baud < 2 ^ 20
  | .twiBegin _ _ cap => cap < 2 ^ 12
  | .twiEndTx count => count < 2 ^ 12
  | .twiRequest _ count => count < 2 ^ 12
  | .sysCli | .sysSei => true
  | .uartEnd | .uartAvailable | .uartPeek | .uartRead | .uartWrite _ | .uartFlush => true
  | .twiBeginTx _ | .twiWrite _ | .twiAvailable | .twiRead | .twiPeek | .twiFlush => true
  | .twiReady | .twiResult | .twiWrerr => true
  | .evRxByte _ | .evRxSpurious | .evTxShiftDone | .evCts _ => true
  | .evTwiAck | .evTwiNack | .evTwiRxbyte _ | .evTwiArblost | .evTwiBuserr | .evTwiBusIdle => true

end Sys2Proof
end

