-- ==== Sys2Proof/Decode.lean ====
section
/-! DEFINITION. Decoding and encoding (30_encoding.md R90 to R102): total on any 32-bit word and any
origin, rejecting by name; then the encoder, written from the same tables; then the host's reader of a
table word. -/

namespace Sys2Proof

/-! ### Who issues what -/

/-- The issuer of a command or stimulus, from its `UNIT` (R91). -/
def Instr.origin : Instr → Origin
  | .sysCli | .sysSei => .host
  | .uartBegin _ _ | .uartEnd | .uartAvailable | .uartPeek | .uartRead | .uartWrite _ | .uartFlush => .host
  | .twiBegin _ _ _ | .twiBeginTx _ | .twiWrite _ | .twiEndTx _ | .twiRequest _ _ => .host
  | .twiAvailable | .twiRead | .twiPeek | .twiFlush | .twiReady | .twiResult | .twiWrerr => .host
  | .evRxByte _ | .evRxSpurious | .evTxShiftDone | .evCts _ => .line
  | .evTwiAck | .evTwiNack | .evTwiRxbyte _ | .evTwiArblost | .evTwiBuserr | .evTwiBusIdle => .bus

/-! ### The fields of a word (R90, R92) -/

/-- `UNIT = W[31:28]` (R90). -/
def unitField (w : Word) : BitVec 4 := w.extractLsb' 28 4
/-- `OP = W[27:24]` (R90). -/
def opField (w : Word) : BitVec 4 := w.extractLsb' 24 4
/-- `FRAME = W[23:20]` (R92). -/
def frameField (w : Word) : BitVec 4 := w.extractLsb' 20 4
/-- `BAUD = W[19:0]` (R92). -/
def baudField (w : Word) : BitVec 20 := w.extractLsb' 0 20
/-- `OWN = W[23:16]` (R92). -/
def ownField (w : Word) : Byte := w.extractLsb' 16 8
/-- `SPEED = W[15:12]` (R92). -/
def speedField (w : Word) : BitVec 4 := w.extractLsb' 12 4
/-- `CAP = W[11:0]` in format `TB`, and `COUNT = W[11:0]` in format `C` (R92). -/
def lowCountField (w : Word) : BitVec 12 := w.extractLsb' 0 12
/-- `COUNT = W[23:12]` in format `RQ` (R92). -/
def highCountField (w : Word) : BitVec 12 := w.extractLsb' 12 12
/-- `DATA = W[7:0]` and `ADDR = W[7:0]` (R92). -/
def byteField (w : Word) : Byte := w.extractLsb' 0 8
/-- `LEVEL = W[0]` (R92). -/
def levelField (w : Word) : BitVec 1 := w.extractLsb' 0 1

/-! ### The decoder -/

/-- Why a word decodes to `ILLEGAL` (the four cases of R100). -/
inductive DecodeError where
  /-- `UNIT` 0x3 to 0x7 or 0xA to 0xF (R91). -/
  | reservedUnit
  /-- an `OP` that R94 to R98 list as reserved. -/
  | reservedOp
  /-- a one in a bit that R92 says must be zero. -/
  | mustBeZero
  /-- a `LINE` or `BUS` word from the host, or a word of another agent's unit (R99, R102). -/
  | wrongOrigin
  deriving DecidableEq, Repr

/-- Accept `i` if the must-be-zero bits of its format are zero (R92). -/
def ifZero (zero : Bool) (i : Instr) : Except DecodeError Instr :=
  if zero then .ok i else .error .mustBeZero

/-- Format `N`: `W[23:0]` must be zero (R92). -/
def formatN (w : Word) (i : Instr) : Except DecodeError Instr :=
  ifZero (w.extractLsb' 0 24 == 0#24) i
/-- Formats `B` and `A`: `W[23:8]` must be zero (R92). -/
def formatByte (w : Word) (i : Instr) : Except DecodeError Instr :=
  ifZero (w.extractLsb' 8 16 == 0#16) i
/-- Format `C`: `W[23:12]` must be zero (R92). -/
def formatC (w : Word) (i : Instr) : Except DecodeError Instr :=
  ifZero (w.extractLsb' 12 12 == 0#12) i
/-- Format `RQ`: `W[11:8]` must be zero (R92). -/
def formatRQ (w : Word) (i : Instr) : Except DecodeError Instr :=
  ifZero (w.extractLsb' 8 4 == 0#4) i
/-- Format `L`: `W[23:1]` must be zero (R92). -/
def formatL (w : Word) (i : Instr) : Except DecodeError Instr :=
  ifZero (w.extractLsb' 1 23 == 0#23) i

/-- The `SYS` unit (R94). -/
def decodeSys (w : Word) : Except DecodeError Instr :=
  match opField w with
  | 0x1#4 => formatN w .sysCli
  | 0x2#4 => formatN w .sysSei
  | _ => .error .reservedOp

/-- The `UART` unit (R95). -/
def decodeUart (w : Word) : Except DecodeError Instr :=
  match opField w with
  | 0x0#4 => .ok (.uartBegin (frameField w) (baudField w).toNat)
  | 0x1#4 => formatN w .uartEnd
  | 0x2#4 => formatN w .uartAvailable
  | 0x3#4 => formatN w .uartPeek
  | 0x4#4 => formatN w .uartRead
  | 0x5#4 => formatByte w (.uartWrite (byteField w))
  | 0x6#4 => formatN w .uartFlush
  | _ => .error .reservedOp

/-- The `TWI` unit (R96). -/
def decodeTwi (w : Word) : Except DecodeError Instr :=
  match opField w with
  | 0x0#4 => .ok (.twiBegin (ownField w) (speedField w) (lowCountField w).toNat)
  | 0x1#4 => formatByte w (.twiBeginTx (byteField w))
  | 0x2#4 => formatByte w (.twiWrite (byteField w))
  | 0x3#4 => formatC w (.twiEndTx (lowCountField w).toNat)
  | 0x4#4 => formatRQ w (.twiRequest (byteField w) (highCountField w).toNat)
  | 0x5#4 => formatN w .twiAvailable
  | 0x6#4 => formatN w .twiRead
  | 0x7#4 => formatN w .twiPeek
  | 0x8#4 => formatN w .twiFlush
  | 0x9#4 => formatN w .twiReady
  | 0xA#4 => formatN w .twiResult
  | 0xB#4 => formatN w .twiWrerr
  | _ => .error .reservedOp

/-- The `LINE` stimuli (R97). -/
def decodeLine (w : Word) : Except DecodeError Instr :=
  match opField w with
  | 0x0#4 => formatByte w (.evRxByte (byteField w))
  | 0x1#4 => formatN w .evRxSpurious
  | 0x2#4 => formatN w .evTxShiftDone
  | 0x3#4 => formatL w (.evCts (levelField w == 1#1))
  | _ => .error .reservedOp

/-- The `BUS` stimuli (R98). -/
def decodeBus (w : Word) : Except DecodeError Instr :=
  match opField w with
  | 0x0#4 => formatN w .evTwiAck
  | 0x1#4 => formatN w .evTwiNack
  | 0x2#4 => formatByte w (.evTwiRxbyte (byteField w))
  | 0x3#4 => formatN w .evTwiArblost
  | 0x4#4 => formatN w .evTwiBuserr
  | 0x5#4 => formatN w .evTwiBusIdle
  | _ => .error .reservedOp

/-- Which row of R94 to R98 a word matches, whoever issued it. -/
def decodeWord (w : Word) : Except DecodeError Instr :=
  match unitField w with
  | 0x0#4 => decodeSys w
  | 0x1#4 => decodeUart w
  | 0x2#4 => decodeTwi w
  | 0x8#4 => decodeLine w
  | 0x9#4 => decodeBus w
  | _ => .error .reservedUnit

/-- `decode(W, origin)` of R99: the matching row, if the row's `UNIT` is issued by the origin. -/
def decode (o : Origin) (w : Word) : Except DecodeError Instr :=
  match decodeWord w with
  | .error e => .error e
  | .ok i => if i.origin = o then .ok i else .error .wrongOrigin

/-! ### The encoder -/

/-- The outer format of R90: `UNIT ++ OP ++ operand`. -/
def mkWord (unit op : BitVec 4) (operand : BitVec 24) : Word := unit ++ op ++ operand

/-- The operand of formats `B` and `A` (R92). -/
def byteOperand (b : Byte) : BitVec 24 := 0#16 ++ b

/-- The word of a well-formed instruction (R92, R94 to R98). -/
def encode : Instr → Word
  | .sysCli => mkWord 0x0 0x1 0
  | .sysSei => mkWord 0x0 0x2 0
  | .uartBegin frame baud => mkWord 0x1 0x0 (frame ++ BitVec.ofNat 20 baud)
  | .uartEnd => mkWord 0x1 0x1 0
  | .uartAvailable => mkWord 0x1 0x2 0
  | .uartPeek => mkWord 0x1 0x3 0
  | .uartRead => mkWord 0x1 0x4 0
  | .uartWrite data => mkWord 0x1 0x5 (byteOperand data)
  | .uartFlush => mkWord 0x1 0x6 0
  | .twiBegin own speed cap => mkWord 0x2 0x0 (own ++ speed ++ BitVec.ofNat 12 cap)
  | .twiBeginTx addr => mkWord 0x2 0x1 (byteOperand addr)
  | .twiWrite data => mkWord 0x2 0x2 (byteOperand data)
  | .twiEndTx count => mkWord 0x2 0x3 (0#12 ++ BitVec.ofNat 12 count)
  | .twiRequest addr count => mkWord 0x2 0x4 (BitVec.ofNat 12 count ++ 0#4 ++ addr)
  | .twiAvailable => mkWord 0x2 0x5 0
  | .twiRead => mkWord 0x2 0x6 0
  | .twiPeek => mkWord 0x2 0x7 0
  | .twiFlush => mkWord 0x2 0x8 0
  | .twiReady => mkWord 0x2 0x9 0
  | .twiResult => mkWord 0x2 0xA 0
  | .twiWrerr => mkWord 0x2 0xB 0
  | .evRxByte data => mkWord 0x8 0x0 (byteOperand data)
  | .evRxSpurious => mkWord 0x8 0x1 0
  | .evTxShiftDone => mkWord 0x8 0x2 0
  | .evCts level => mkWord 0x8 0x3 (0#23 ++ BitVec.ofBool level)
  | .evTwiAck => mkWord 0x9 0x0 0
  | .evTwiNack => mkWord 0x9 0x1 0
  | .evTwiRxbyte data => mkWord 0x9 0x2 (byteOperand data)
  | .evTwiArblost => mkWord 0x9 0x3 0
  | .evTwiBuserr => mkWord 0x9 0x4 0
  | .evTwiBusIdle => mkWord 0x9 0x5 0

/-! ### The opcode tables, as the spec prints them -/

/-- One row of R94 to R98: the words with `w AND mask = pattern` are this row's, and `read` takes the
fields of R92 from such a word. The decoder does not use it: it says what the decoder must do (R99). -/
structure OpcodeRow where
  origin : Origin
  mask : Word
  pattern : Word
  read : Word → Instr

/-- The `SYS` rows (R94). -/
def sysRows : List OpcodeRow :=
  [⟨.host, 0xFFFFFFFF, 0x01000000, fun _ => .sysCli⟩,
   ⟨.host, 0xFFFFFFFF, 0x02000000, fun _ => .sysSei⟩]

/-- The `UART` rows (R95). -/
def uartRows : List OpcodeRow :=
  [⟨.host, 0xFF000000, 0x10000000, fun w => .uartBegin (w.extractLsb' 20 4) (w.extractLsb' 0 20).toNat⟩,
   ⟨.host, 0xFFFFFFFF, 0x11000000, fun _ => .uartEnd⟩,
   ⟨.host, 0xFFFFFFFF, 0x12000000, fun _ => .uartAvailable⟩,
   ⟨.host, 0xFFFFFFFF, 0x13000000, fun _ => .uartPeek⟩,
   ⟨.host, 0xFFFFFFFF, 0x14000000, fun _ => .uartRead⟩,
   ⟨.host, 0xFFFFFF00, 0x15000000, fun w => .uartWrite (w.extractLsb' 0 8)⟩,
   ⟨.host, 0xFFFFFFFF, 0x16000000, fun _ => .uartFlush⟩]

/-- The `TWI` rows (R96). -/
def twiRows : List OpcodeRow :=
  [⟨.host, 0xFF000000, 0x20000000, fun w => .twiBegin (w.extractLsb' 16 8) (w.extractLsb' 12 4) (w.extractLsb' 0 12).toNat⟩,
   ⟨.host, 0xFFFFFF00, 0x21000000, fun w => .twiBeginTx (w.extractLsb' 0 8)⟩,
   ⟨.host, 0xFFFFFF00, 0x22000000, fun w => .twiWrite (w.extractLsb' 0 8)⟩,
   ⟨.host, 0xFFFFF000, 0x23000000, fun w => .twiEndTx (w.extractLsb' 0 12).toNat⟩,
   ⟨.host, 0xFF000F00, 0x24000000, fun w => .twiRequest (w.extractLsb' 0 8) (w.extractLsb' 12 12).toNat⟩,
   ⟨.host, 0xFFFFFFFF, 0x25000000, fun _ => .twiAvailable⟩,
   ⟨.host, 0xFFFFFFFF, 0x26000000, fun _ => .twiRead⟩,
   ⟨.host, 0xFFFFFFFF, 0x27000000, fun _ => .twiPeek⟩,
   ⟨.host, 0xFFFFFFFF, 0x28000000, fun _ => .twiFlush⟩,
   ⟨.host, 0xFFFFFFFF, 0x29000000, fun _ => .twiReady⟩,
   ⟨.host, 0xFFFFFFFF, 0x2A000000, fun _ => .twiResult⟩,
   ⟨.host, 0xFFFFFFFF, 0x2B000000, fun _ => .twiWrerr⟩]

/-- The `LINE` rows (R97). -/
def lineRows : List OpcodeRow :=
  [⟨.line, 0xFFFFFF00, 0x80000000, fun w => .evRxByte (w.extractLsb' 0 8)⟩,
   ⟨.line, 0xFFFFFFFF, 0x81000000, fun _ => .evRxSpurious⟩,
   ⟨.line, 0xFFFFFFFF, 0x82000000, fun _ => .evTxShiftDone⟩,
   ⟨.line, 0xFFFFFFFE, 0x83000000, fun w => .evCts (w.getLsbD 0)⟩]

/-- The `BUS` rows (R98). -/
def busRows : List OpcodeRow :=
  [⟨.bus, 0xFFFFFFFF, 0x90000000, fun _ => .evTwiAck⟩,
   ⟨.bus, 0xFFFFFFFF, 0x91000000, fun _ => .evTwiNack⟩,
   ⟨.bus, 0xFFFFFF00, 0x92000000, fun w => .evTwiRxbyte (w.extractLsb' 0 8)⟩,
   ⟨.bus, 0xFFFFFFFF, 0x93000000, fun _ => .evTwiArblost⟩,
   ⟨.bus, 0xFFFFFFFF, 0x94000000, fun _ => .evTwiBuserr⟩,
   ⟨.bus, 0xFFFFFFFF, 0x95000000, fun _ => .evTwiBusIdle⟩]

/-- All 31 rows (R94 to R98). -/
def opcodeRows : List OpcodeRow := sysRows ++ uartRows ++ twiRows ++ lineRows ++ busRows

/-! ### A word of the opcode table -/

/-- The agent whose unit a word names (R91); a word of no agent's unit is taken as the host's, which
is where R100 says what it does. -/
def issuer (w : Word) : Origin :=
  match unitField w with
  | 0x8#4 => .line
  | 0x9#4 => .bus
  | _ => .host

/-- The 32-bit word whose low `nbits` bits are those of `w`. A word is handed over whole (R80), so
there is no byte order to lay it out in. -/
def tableWord (nbits w : Nat) : Word := BitVec.ofNat 32 (w % 2 ^ nbits)

/-- What the decoder reads from a table word, issued by the agent of its unit (log 13). -/
def decodeTableWord (nbits w : Nat) : Option Instr :=
  match decode (issuer (tableWord nbits w)) (tableWord nbits w) with
  | .ok i => some i
  | .error _ => none

end Sys2Proof
end

