-- ==== Sys2Proof/Config.lean ====
section
/-! DEFINITION. What an implementation fixes (00_scope.md R8, 92_eei_decisions.md "Open parameters") and
what the spec leaves free: the reset draws (10_state.md R60) and the contents of a new TWI memory
(93_implementation_defined.md I8). The free values are `opaque` constants without a body: nothing can be
proved of them, so what is proved holds for all of them. -/

namespace Sys2Proof

/-- `CANON_BAUDS`, the 13 canonical baud rates (R8, D7). -/
def canonBauds : List Nat :=
  [1200, 2400, 4800, 9600, 14400, 19200, 28800, 38400, 57600, 115200, 230400, 460800, 921600]

/-- `RTS_MARGIN` (R8). -/
def rtsMargin : Nat := 3

/-- `BAUD_CROSSOVER` (R8, R126). -/
def baudCrossover : Nat := 57600

/-- The open parameters of R8, each over its whole range, as plain data. `BAUD_TABLE` is its 26 entries,
one vector for each oversampling mode in the order of `canonBauds` (D8). -/
structure Params where
  /-- `N_RX - 2`, so that `2 <= N_RX <= 256` (D11). -/
  nRxLess2 : Fin 255
  /-- `N_TX - 2`, so that `2 <= N_TX <= 256` (D11). -/
  nTxLess2 : Fin 255
  /-- `BAUD_TABLE(0, _)`: single speed (D8). -/
  baudSingle : Vector (BitVec 16) canonBauds.length
  /-- `BAUD_TABLE(1, _)`: double speed (D8). -/
  baudDouble : Vector (BitVec 16) canonBauds.length
  /-- `RTS_BOUND`: an RTS output pin is bound. -/
  rtsBound : Bool
  /-- `CTS_BOUND`: a CTS input pin is bound. -/
  ctsBound : Bool
  /-- `CTS_EDGE_IRQ`: the CTS pin can raise an edge interrupt (D15). -/
  ctsEdgeIrq : Bool
  /-- `RTS_ACTIVE_LEVEL`: no rule reads it (D14). -/
  rtsActiveLevel : Bool
  /-- `CTS_ACTIVE_LEVEL`: no rule reads it (D14). -/
  ctsActiveLevel : Bool
  /-- `TWI_BUF_MAX - 1`, so that `1 <= TWI_BUF_MAX <= 4095` (D29). -/
  twiBufMaxLess1 : Fin 4095
  /-- `TWI_DIVISOR(0)`, the divisor for speed code 0 (D28). -/
  twiDivisor0 : BitVec 8
  /-- `TWI_DIVISOR(1)`, the divisor for speed code 1 (D28). -/
  twiDivisor1 : BitVec 8
  /-- `F_CLK - 1`, so that `F_CLK` is positive: no rule reads it (R8). -/
  fClkLess1 : Nat
  deriving DecidableEq, Repr, Inhabited

/-- `N_RX`: slots of the RX ring (R8). -/
def Params.nRx (p : Params) : Nat := p.nRxLess2.val + 2
/-- `N_TX`: slots of the TX ring (R8). -/
def Params.nTx (p : Params) : Nat := p.nTxLess2.val + 2
/-- `TWI_BUF_MAX`: the largest TWI buffer that can be allocated (R8). -/
def Params.twiBufMax (p : Params) : Nat := p.twiBufMaxLess1.val + 1
/-- `F_CLK` (R8). -/
def Params.fClk (p : Params) : Nat := p.fClkLess1 + 1

/-- The values that R245 lists as unspecified: drawn once at reset (R60, D44). -/
structure ResetDraws where
  resp : Word
  frame : BitVec 4
  timing : BitVec 16
  u2x : Bool
  udrRx : Byte
  ctsIn : Bool
  ownAddr : Byte
  speed : BitVec 4
  div : Byte
  dataIn : Byte
  deriving DecidableEq, Repr, Inhabited

/-- The parameters of the machine that `State.reset` is the reset of: free (log 2). -/
opaque Config.params : Params

/-- The draws of `State.reset`: free (log 3). DESIGN CHOICE: the spec gives no values. -/
opaque Config.draws : ResetDraws

/-- The byte that a newly allocated TWI memory holds: `Config.twiDraw k i` is byte `i` of the `k`-th
memory allocated (R170, I8). Free (log 4). DESIGN CHOICE: the spec gives no values. -/
opaque Config.twiDraw : Nat → Nat → Byte

end Sys2Proof
end

