-- ==== Sys2Proof/Machine/State.lean ====
section
/-! DEFINITION. The state of the block (10_state.md R20 to R64), the agents' moves, the reasons a step
can stop, and reset (70_reset_and_hazards.md R245). Every field is plain data. -/

namespace Sys2Proof.Machine

/-! ### Memories and buffers -/

/-- One of the block's byte memories: (index, byte) pairs, indices strictly rising (20_memory.md R65). -/
abbrev Memory := List Host.Cell

/-- The four byte memories, the block's only address spaces (R65). -/
inductive MemId where
  | rxb
  | txb
  | sendbuf
  | recvbuf
  deriving DecidableEq, Repr

/-- A RingBuffer (R26, R27): `head` is the next write slot, `tail` the next read slot. -/
structure RingBuffer where
  storage : Memory
  head : Nat
  tail : Nat
  deriving DecidableEq, Repr

/-- The mode of a TWI buffer (R73). -/
inductive BufMode where
  | fill
  | drain
  deriving DecidableEq, Repr

/-- A TWI buffer (R41, R73). -/
structure TwiBuffer where
  data : Memory
  pos : Nat
  lim : Nat
  mode : BufMode
  /-- The MODEL's own field: which allocation the memory came from (log 4). -/
  draw : Nat
  deriving DecidableEq, Repr

/-! ### Enumerations -/

/-- `TSTATE` (R48, R106), in the order of its codes. -/
inductive TState where
  | idle
  | addressPending
  | writingData
  | repeatedStart
  | readingData
  | arbLost
  | busError
  deriving DecidableEq, Repr

/-- `ENG`, the bus engine's pending action (R54, R106), in the order of its codes. -/
inductive Eng where
  | none
  | addrW
  | addrR
  | dataW
  | recv
  | stop
  deriving DecidableEq, Repr

/-- The names of the waits (R24, R106). -/
inductive WaitKind where
  | uWrite
  | uFlush
  | uEnd
  | tBeginTx
  | tRequest
  | tAvailable
  deriving DecidableEq, Repr

/-- `HSTATE` (R24). -/
inductive HostState where
  | idle
  | wait (kind : WaitKind) (entryIE : Bool) (cmd : Instr)
  deriving DecidableEq, Repr

/-- An element of `TWI_OUT` (R61). -/
inductive BusAction where
  | start (addr : Byte)
  | rstart (addr : Byte)
  | data (b : Byte)
  | stop
  | ack
  | nackStop
  deriving DecidableEq, Repr

/-- The four interrupt sources (60_exceptions.md R225), each with one handler (30_encoding.md R111). -/
inductive IrqSource where
  /-- `ISR_UART_RX` -/
  | uartRx
  /-- `ISR_UART_DRE` -/
  | uartDre
  /-- `ISR_UART_CTS` -/
  | uartCts
  /-- `ISR_TWI` -/
  | twi
  deriving DecidableEq, Repr

/-- One step of one agent (R5, R229). -/
inductive Move where
  /-- the Host issues a command word, or the Line or the Bus takes a stimulus word -/
  | word (o : Origin) (w : Word)
  /-- the Host polls in a wait (R118) -/
  | poll
  /-- the Dispatcher runs the handler of a source (R228) -/
  | dispatch (src : IrqSource)
  deriving DecidableEq, Repr

/-! ### The state -/

/-- The UART channel (R26 to R39) with its output logs (R61). `DRE` is derived, not stored (R35). -/
structure Uart where
  /-- `RXB`, R26 -/
  rxb : RingBuffer
  /-- `TXB`, R27 -/
  txb : RingBuffer
  /-- `U_BEGUN`, R28 -/
  begun : Bool
  /-- `TRANSMITTING`, R29 -/
  transmitting : Bool
  /-- `U_FRAME`, R30 -/
  frame : BitVec 4
  /-- `U_TIMING`, R30 -/
  timing : BitVec 16
  /-- `U_2X`, R30 -/
  u2x : Bool
  /-- `RXEN`, R31 -/
  rxen : Bool
  /-- `TXEN`, R31 -/
  txen : Bool
  /-- `RXCIE`, R32 -/
  rxcie : Bool
  /-- `DREIE`, R32 -/
  dreie : Bool
  /-- `DR`, R33 -/
  dr : Bool
  /-- `UDR_RX`, R33 -/
  udrRx : Byte
  /-- `RX_SPUR`, R34 -/
  rxSpur : Bool
  /-- `TXHOLD`, R35 -/
  txhold : Option Byte
  /-- `TXSHIFT`, R35 -/
  txshift : Option Byte
  /-- `TXC`, R36 -/
  txc : Bool
  /-- `RTS_DRIVEN`, R37 -/
  rtsDriven : Bool
  /-- `RTS_ASSERTED`, R37 -/
  rtsAsserted : Bool
  /-- `CTS_IN`, R38 -/
  ctsIn : Bool
  /-- `CTS_IE`, R39 -/
  ctsIe : Bool
  /-- `CTS_EDGE`, R39 -/
  ctsEdge : Bool
  /-- `UART_OUT`, oldest first: an output log, R61 -/
  uartOut : List Byte
  /-- `UART_IN`, oldest first: an output log, R61 -/
  uartIn : List Byte
  deriving DecidableEq, Repr

/-- The TWI controller (R40 to R54) with its output log (R61). -/
structure Twi where
  /-- `T_BEGUN`, R40 -/
  begun : Bool
  /-- `T_CAP`, R41 -/
  cap : Nat
  /-- `SENDBUF`, R41 -/
  sendbuf : TwiBuffer
  /-- `RECVBUF`, R41 -/
  recvbuf : TwiBuffer
  /-- `T_OWNADDR`, R42 -/
  ownAddr : Byte
  /-- `T_SPEED`, R42 -/
  speed : BitVec 4
  /-- `T_DIV`, R42 -/
  div : Byte
  /-- `SLA`, R43 -/
  sla : Byte
  /-- `SRS`, R44 -/
  srs : Nat
  /-- `TX_ACTIVE`, R45 -/
  txActive : Bool
  /-- `WERR`, R46 -/
  werr : Byte
  /-- `TRESULT`, R47 -/
  tresult : Byte
  /-- `TSTATE`, R48 -/
  tstate : TState
  /-- `BUS_IDLE`, R49 -/
  busIdle : Bool
  /-- `T_IRQEN`, R50 -/
  irqen : Bool
  /-- `WIF`, R51 -/
  wif : Bool
  /-- `RIF`, R51 -/
  rif : Bool
  /-- `NACKF`, R51 -/
  nackf : Bool
  /-- `ARBF`, R52 -/
  arbf : Bool
  /-- `BERF`, R52 -/
  berf : Bool
  /-- `T_DATA_IN`, R53 -/
  dataIn : Byte
  /-- `ENG`, R54 -/
  eng : Eng
  /-- `TWI_OUT`, oldest first: an output log, R61 -/
  twiOut : List BusAction
  /-- The MODEL's own field: how many memories have been allocated (log 4). -/
  allocs : Nat
  deriving DecidableEq, Repr

/-- The whole block. -/
structure State where
  /-- The MODEL's own field: the parameters of R8, which no step changes (R62, log 2). -/
  cfg : Params
  /-- The MODEL's own field: the agents' moves still to come, oldest first (log 1). -/
  sched : List Move
  /-- `IE`, R22 -/
  ie : Bool
  /-- `FAULT`, R23 -/
  fault : Byte
  /-- `HSTATE`, R24 -/
  hstate : HostState
  /-- `RESP`, R25 -/
  resp : Word
  /-- R26 to R39, with its logs of R61 -/
  uart : Uart
  /-- R40 to R54, with its log of R61 -/
  twi : Twi
  deriving DecidableEq, Repr

/-! ### How a step can stop -/

/-- Faults of the MODEL. The spec's own `Fault(code)` is no stop but a response (R221): it is
`FaultCode` in Machine/Operands.lean. -/
inductive Fault where
  /-- Raised by an access to byte `index` of a memory that has no such byte (R65). No state that meets
  `State.Inv` raises it. Safe (log 5). -/
  | indexOutOfRange (mem : MemId) (index : Nat)
  deriving DecidableEq, Repr

/-- Refusals: the scheduled move is no step of the block in this state (R102), so a trace that holds it
is no run. All are safe (log 6). -/
inductive Refusal where
  /-- Raised by `exec` for an instruction that has no meaning in this model; no arm uses it. Safe. -/
  | notModelled (mnemonic : String)
  /-- Raised by a stimulus whose enabling condition fails (R102, R151 to R153, R196 to R201). Safe. -/
  | stimulusNotEnabled
  /-- Raised by a word of the Line or the Bus that is no stimulus of its own unit (R99, R102). Safe. -/
  | reservedStimulus
  /-- Raised by a command word while `HSTATE = WAIT`: the only host step is then the poll (R117, R124).
  Safe. -/
  | hostWaiting
  /-- Raised by a poll while `HSTATE = IDLE` (R118). Safe. -/
  | hostNotWaiting
  /-- Raised by a poll if `HSTATE` names a kind of wait that its command does not have (R24): no state
  that meets `State.Inv` raises it. Safe (log 9). -/
  | waitMismatch
  /-- Raised by a dispatch with `IE = 0` or a source that is not pending (R228). Safe. -/
  | dispatchNotEnabled
  deriving DecidableEq, Repr

/-! ### Reset -/

/-- A ring as constructed: storage all zero, `head = tail = 0` (R26, R27). -/
def RingBuffer.zeroed : RingBuffer := { storage := [], head := 0, tail := 0 }

/-- A TWI buffer before `TWI_BEGIN`: unallocated (R41). -/
def TwiBuffer.unallocated : TwiBuffer := { data := [], pos := 0, lim := 0, mode := .fill, draw := 0 }

/-- The UART channel after reset, with its draws (R245). -/
def Uart.reset (d : ResetDraws) : Uart :=
  { rxb := .zeroed, txb := .zeroed, begun := false, transmitting := false
    frame := d.frame, timing := d.timing, u2x := d.u2x
    rxen := false, txen := false, rxcie := false, dreie := false
    dr := false, udrRx := d.udrRx, rxSpur := false
    txhold := none, txshift := none, txc := false
    rtsDriven := false, rtsAsserted := false, ctsIn := d.ctsIn, ctsIe := false, ctsEdge := false
    uartOut := [], uartIn := [] }

/-- The TWI controller after reset, with its draws (R245). -/
def Twi.reset (d : ResetDraws) : Twi :=
  { begun := false, cap := 0, sendbuf := .unallocated, recvbuf := .unallocated
    ownAddr := d.ownAddr, speed := d.speed, div := d.div
    sla := 0, srs := 0, txActive := false, werr := 0, tresult := 0, tstate := .idle
    busIdle := false, irqen := false, wif := false, rif := false, nackf := false
    arbf := false, berf := false, dataIn := d.dataIn, eng := .none, twiOut := [], allocs := 0 }

/-- The block right after reset, for given parameters and draws (R245). -/
def State.resetWith (p : Params) (d : ResetDraws) : State :=
  { cfg := p, sched := [], ie := false, fault := 0, hstate := .idle, resp := d.resp
    uart := .reset d, twi := .reset d }

/-- The block right after reset (R245), its parameters and draws free (log 2, log 3). -/
def State.reset : State := State.resetWith Config.params Config.draws

end Sys2Proof.Machine
end

