-- ==== Sys2Proof/Machine/Operands.lean ====
section
/-! DEFINITION. Operand forms and response words: the code tables (30_encoding.md R103 to R107), baud
selection (41_uart.md R125, R126), the legality tests a command makes when it executes (R93), and the
slave address byte (10_state.md R43). -/

namespace Sys2Proof.Machine

/-! ### Codes -/

/-- The fault codes of R107. -/
inductive FaultCode where
  | illegalCommand
  | notBegun
  | twiBusy
  deriving DecidableEq, Repr

/-- The number of a fault code (R107). -/
def FaultCode.code : FaultCode → Byte
  | .illegalCommand => 1
  | .notBegun => 2
  | .twiBusy => 3

/-- The status codes of R104. -/
inductive Status where
  | ok
  | invalidAddress
  | invalidSpeed
  | bufferAllocationFailure
  | invalidCapacity
  | invalidCount
  | writeNotStarted
  | sendBufferFull
  | unsupportedBaud
  deriving DecidableEq, Repr

/-- The number of a status code (R104). -/
def Status.code : Status → Byte
  | .ok => 0
  | .invalidAddress => 1
  | .invalidSpeed => 2
  | .bufferAllocationFailure => 3
  | .invalidCapacity => 4
  | .invalidCount => 5
  | .writeNotStarted => 6
  | .sendBufferFull => 7
  | .unsupportedBaud => 8

/-- The transaction results of R105. -/
inductive TwiResult where
  | none
  | success
  | nack
  | arbLost
  | busError
  deriving DecidableEq, Repr

/-- The number of a transaction result (R105). -/
def TwiResult.code : TwiResult → Byte
  | .none => 0
  | .success => 1
  | .nack => 2
  | .arbLost => 3
  | .busError => 4

/-- The number of a `TSTATE` (R106), for observers only. -/
def TState.code : TState → Nat
  | .idle => 0
  | .addressPending => 1
  | .writingData => 2
  | .repeatedStart => 3
  | .readingData => 4
  | .arbLost => 5
  | .busError => 6

/-- The number of an `ENG` (R106), for observers only. -/
def Eng.code : Eng → Nat
  | .none => 0
  | .addrW => 1
  | .addrR => 2
  | .dataW => 3
  | .recv => 4
  | .stop => 5

/-! ### Response words (R103) -/

/-- A byte or an 8-bit code: `zext_32(b)`. -/
def respByte (b : Byte) : Word := b.setWidth 32

/-- No byte: `sext_32(-1)`. -/
def respNoByte : Word := 0xFFFFFFFF

/-- A byte, or no byte. -/
def respOption : Option Byte → Word
  | some b => respByte b
  | none => respNoByte

/-- A count: `zext_32(n)`. -/
def respCount (n : Nat) : Word := BitVec.ofNat 32 n

/-- A status code. -/
def respStatus (st : Status) : Word := respByte st.code

/-- A Boolean. -/
def respBool (b : Bool) : Word := if b then 1 else 0

/-- A fault: `0x80000000 | f`. -/
def respFault (f : FaultCode) : Word := 0x80000000#32 ||| f.code.setWidth 32

/-! ### Baud selection -/

/-- Where a baud stands among the canonical ones; `none` if it is not canonical. -/
def canonIndex (baud : Nat) : Option (Fin canonBauds.length) :=
  canonBauds.findFinIdx? (fun b => b == baud)

/-- `BAUD_TABLE(u2x, baud)` at the place of the baud (R8, D8). -/
def baudTable (p : Params) (u2x : Bool) (i : Fin canonBauds.length) : BitVec 16 :=
  if u2x then p.baudDouble[i] else p.baudSingle[i]

/-- `BaudResolve(baud, u2x)`; `none` is `UNSUPPORTED` (R125). -/
def baudResolve (p : Params) (baud : Nat) (u2x : Bool) : Option (BitVec 16) :=
  (canonIndex baud).map (baudTable p u2x)

/-- Double-speed selection (R126). -/
def doubleSpeed (baud : Nat) : Bool := decide (baud > baudCrossover)

/-! ### TWI operands -/

/-- A legal speed code: 0 or 1 (R170, D27). -/
def validSpeed (speed : BitVec 4) : Bool := speed == 0#4 || speed == 1#4

/-- `TWI_DIVISOR(speed)` of a legal speed code (R8, D28). -/
def twiDivisor (p : Params) (speed : BitVec 4) : Byte :=
  if speed == 0#4 then p.twiDivisor0 else p.twiDivisor1

/-- A valid 7-bit address: at most `0x7F` (R171, D36). -/
def validAddr (addr : Byte) : Bool := decide (addr.toNat ≤ 0x7F)

/-- `ADDR[6:0] ++ 0`: the address byte of a write (R171). -/
def slaWrite (addr : Byte) : Byte := addr.extractLsb' 0 7 ++ 0#1

/-- `ADDR[6:0] ++ 1`: the address byte of a read (R174). -/
def slaRead (addr : Byte) : Byte := addr.extractLsb' 0 7 ++ 1#1

/-- `SLA[7:1] ++ 1`: the address byte of a repeated start (R205). -/
def slaRepeat (sla : Byte) : Byte := sla.extractLsb' 1 7 ++ 1#1

end Sys2Proof.Machine
end

