-- ==== Sys2Proof/Machine/Ops.lean ====
section
/-! DEFINITION. The named operations: the byte memories (20_memory.md R65), the ring buffer (R66 to R71)
and TWI buffer (R73 to R79) primitives, the hardware data registers (42_uart_events.md R154, R155), the
bus actions (44_twi_events.md R195), the response and the fault (30_encoding.md R103, 60_exceptions.md
R221), and the frame every host command and every stimulus runs in (40_sys.md R117, 30_encoding.md R102). -/

namespace Sys2Proof.Machine

/-! ### Byte memories (R65) -/

/-- The byte listed at an index. -/
def Memory.listed : Memory → Nat → Option Byte
  | [], _ => none
  | (a, b) :: m, i => if a = i then some b else Memory.listed m i

/-- List byte `b` at index `i`, in the place of what was listed there. -/
def Memory.insert : Memory → Nat → Byte → Memory
  | [], i, b => [(i, b)]
  | (a, c) :: m, i, b =>
    if i < a then (i, b) :: (a, c) :: m
    else if i = a then (i, b) :: m
    else (a, c) :: Memory.insert m i b

/-- List nothing at index `i`. -/
def Memory.erase : Memory → Nat → Memory
  | [], _ => []
  | (a, c) :: m, i => if a = i then m else (a, c) :: Memory.erase m i

/-- What an unlisted index reads as. Ring storage is zeroed at construction (R26, R27); a TWI memory
holds free values until it is written (R170, I8, log 4). -/
def unlisted (id : MemId) (draw i : Nat) : Byte :=
  match id with
  | .rxb | .txb => 0
  | .sendbuf | .recvbuf => Config.twiDraw draw i

/-- The byte that is never listed, because an unlisted index reads as it: none for a TWI memory, whose
unlisted bytes are free values. -/
def neverListed : MemId → Option Byte
  | .rxb | .txb => some 0
  | .sendbuf | .recvbuf => none

/-- Store a byte, keeping the canonical form. -/
def Memory.put (id : MemId) (m : Memory) (i : Nat) (b : Byte) : Memory :=
  if neverListed id = some b then m.erase i else m.insert i b

/-- The byte at an index, with no range check. -/
def Memory.byteAt (id : MemId) (draw : Nat) (m : Memory) (i : Nat) : Byte :=
  (m.listed i).getD (unlisted id draw i)

/-- Indices strictly rising from `lo` on. -/
def Memory.risesFrom : Nat → Memory → Bool
  | _, [] => true
  | lo, (a, _) :: m => decide (lo ≤ a) && Memory.risesFrom (a + 1) m

/-- The canonical form of a memory of `size` bytes: strictly rising indices, all in range, and no byte
that an unlisted index reads as. -/
def Memory.wf (id : MemId) (size : Nat) (m : Memory) : Bool :=
  Memory.risesFrom 0 m && m.all (fun c => decide (c.1 < size) && decide (neverListed id ≠ some c.2))

/-- `MemRead(M, i, 1)` (R11, R65): an index outside the memory faults (log 5). -/
def memRead (id : MemId) (size draw : Nat) (m : Memory) (i : Nat) : Except Fault Byte :=
  if i < size then .ok (m.byteAt id draw i) else .error (.indexOutOfRange id i)

/-- `MemWrite(M, i, 1, b)` (R11, R65): an index outside the memory faults (log 5). -/
def memWrite (id : MemId) (size : Nat) (m : Memory) (i : Nat) (b : Byte) : Except Fault Memory :=
  if i < size then .ok (m.put id i b) else .error (.indexOutOfRange id i)

/-! ### RingBuffer (R66 to R71); `n` is the number of slots -/

/-- `Occ(rb)`: `(head - tail) mod N`, the non-negative remainder (R10, R66). -/
def RingBuffer.occ (rb : RingBuffer) (n : Nat) : Nat := (((rb.head : Int) - rb.tail) % n).toNat

/-- `Empty(rb)` (R67). -/
def RingBuffer.empty (rb : RingBuffer) : Bool := rb.head == rb.tail

/-- `Full(rb)` (R67). -/
def RingBuffer.full (rb : RingBuffer) (n : Nat) : Bool := (rb.head + 1) % n == rb.tail

/-- `NearFull(rb, m)` (R68). -/
def RingBuffer.nearFull (rb : RingBuffer) (n m : Nat) : Bool := decide (rb.occ n + m ≥ n - 1)

/-- `Store(rb, b)`: a full ring drops the new byte (R69). -/
def RingBuffer.store (id : MemId) (n : Nat) (rb : RingBuffer) (b : Byte) : Except Fault RingBuffer :=
  if rb.full n then .ok rb
  else do
    let st ← memWrite id n rb.storage rb.head b
    .ok { rb with storage := st, head := (rb.head + 1) % n }

/-- `Take(rb)` (R70). -/
def RingBuffer.take (id : MemId) (n : Nat) (rb : RingBuffer) : Except Fault (Option Byte × RingBuffer) :=
  if rb.empty then .ok (none, rb)
  else do
    let b ← memRead id n 0 rb.storage rb.tail
    .ok (some b, { rb with tail := (rb.tail + 1) % n })

/-- `Front(rb)` (R71). -/
def RingBuffer.front (id : MemId) (n : Nat) (rb : RingBuffer) : Except Fault (Option Byte) :=
  if rb.empty then .ok none
  else do
    let b ← memRead id n 0 rb.storage rb.tail
    .ok (some b)

/-! ### TWI buffers (R73 to R79); `cap` is `T_CAP` -/

/-- `Clear(tb)`: the bytes are left as they are (R74). -/
def TwiBuffer.clear (cap : Nat) (tb : TwiBuffer) : TwiBuffer :=
  { tb with pos := 0, lim := cap, mode := .fill }

/-- `Put(tb, b)`: whether the byte was accepted, and the buffer after (R75). -/
def TwiBuffer.put (id : MemId) (cap : Nat) (tb : TwiBuffer) (b : Byte) : Except Fault (Bool × TwiBuffer) :=
  if tb.mode = .fill ∧ tb.pos < tb.lim then do
    let d ← memWrite id cap tb.data tb.pos b
    .ok (true, { tb with data := d, pos := tb.pos + 1 })
  else .ok (false, tb)

/-- `Get(tb)` (R76). -/
def TwiBuffer.get (id : MemId) (cap : Nat) (tb : TwiBuffer) : Except Fault (Option Byte × TwiBuffer) :=
  if tb.mode = .drain ∧ tb.pos < tb.lim then do
    let b ← memRead id cap tb.draw tb.data tb.pos
    .ok (some b, { tb with pos := tb.pos + 1 })
  else .ok (none, tb)

/-- `Flip(tb)`: no change to a draining buffer (R77). -/
def TwiBuffer.flip (tb : TwiBuffer) : TwiBuffer :=
  match tb.mode with
  | .fill => { tb with lim := tb.pos, pos := 0, mode := .drain }
  | .drain => tb

/-- `Remaining(tb)`, which is also `Readable(tb)` (R78). -/
def TwiBuffer.remaining (tb : TwiBuffer) : Nat :=
  match tb.mode with
  | .drain => tb.lim - tb.pos
  | .fill => 0

/-- `PeekB(tb)` (R79). -/
def TwiBuffer.peekB (id : MemId) (cap : Nat) (tb : TwiBuffer) : Except Fault (Option Byte) :=
  if tb.mode = .drain ∧ tb.pos < tb.lim then do
    let b ← memRead id cap tb.draw tb.data tb.pos
    .ok (some b)
  else .ok none

/-- A TWI buffer over a new memory, whose contents are draw number `k` (R170). -/
def TwiBuffer.allocate (k : Nat) (tb : TwiBuffer) : TwiBuffer := { tb with data := [], draw := k }

/-! ### UART hardware registers -/

/-- `RXEN <- 0`, which also clears `DR` and `RX_SPUR` (R33, R34, R128). -/
def Uart.disableRx (u : Uart) : Uart := { u with rxen := false, dr := false, rxSpur := false }

/-- `hwTxWrite(b)` (R154). -/
def Uart.hwTxWrite (u : Uart) (b : Byte) : Uart :=
  if u.txen = false then u
  else if u.txshift = none then { u with txshift := some b }
  else { u with txhold := some b }

/-- `hwRxRead()`: the valid flag, the byte, and the channel after (R155). -/
def Uart.hwRxRead (u : Uart) : Bool × Byte × Uart := (u.dr, u.udrRx, { u with dr := false })

/-! ### Bus actions (R195) -/

/-- Append to `TWI_OUT`, leave the engine with action `e` pending, and clear both transfer flags: what
every bus action does. -/
def Twi.act (t : Twi) (a : BusAction) (e : Eng) : Twi :=
  { t with twiOut := t.twiOut ++ [a], eng := e, wif := false, rif := false }

/-- The engine's pending action after address byte `v` is sent: bit 0 is the R/W bit (R195). -/
def addrEng (v : Byte) : Eng := if v.getLsbD 0 then .addrR else .addrW

/-- `AddrWrite(v, START)`. -/
def Twi.addrStart (t : Twi) (v : Byte) : Twi := { t.act (.start v) (addrEng v) with busIdle := false }

/-- `AddrWrite(v, RSTART)`. -/
def Twi.addrRestart (t : Twi) (v : Byte) : Twi := { t.act (.rstart v) (addrEng v) with busIdle := false }

/-- `DataWrite(b)`. -/
def Twi.dataWrite (t : Twi) (b : Byte) : Twi := t.act (.data b) .dataW

/-- `Stop()`. -/
def Twi.stop (t : Twi) : Twi := t.act .stop .stop

/-- `AckContinue()`. -/
def Twi.ackContinue (t : Twi) : Twi := t.act .ack .recv

/-- `NackStop()`. -/
def Twi.nackStop (t : Twi) : Twi := t.act .nackStop .stop

/-! ### Responses and faults -/

/-- `respond(v)` (R11, R103). -/
def State.respond (s : State) (v : Word) : State := { s with resp := v }

/-- Replace the UART channel. -/
def State.setUart (s : State) (u : Uart) : State := { s with uart := u }

/-- Replace the TWI controller. -/
def State.setTwi (s : State) (t : Twi) : State := { s with twi := t }

/-- Replace `HSTATE`. -/
def State.setHost (s : State) (h : HostState) : State := { s with hstate := h }

/-- `raise Fault(code)` (R221): TAKING A FAULT. The first code is kept, the response carries the code,
and nothing else changes. There is no handler to enter and nothing to return to (R231, R232). -/
def State.raise (s : State) (f : FaultCode) : State :=
  { s with fault := if s.fault = 0 then f.code else s.fault, resp := respFault f }

/-! ### The frame of a step -/

/-- A body's result as the outcome of a step. -/
def toOutcome : Except Fault State → Host.Outcome State Fault Refusal
  | .ok s => .next s
  | .error f => .fault f

/-- A host command runs its body only when `HSTATE = IDLE` (R117, R124). -/
def hostCommand (body : State → Except Fault State) (s : State) : Host.Outcome State Fault Refusal :=
  match s.hstate with
  | .idle => toOutcome (body s)
  | .wait _ _ _ => .refused .hostWaiting

/-- A stimulus is a step only when it is enabled (R102). -/
def stimulus (enabled : Bool) (t : State) : Host.Outcome State Fault Refusal :=
  if enabled then .next t else .refused .stimulusNotEnabled

end Sys2Proof.Machine
end

