-- ==== Sys2Proof/Machine/Flags.lean ====
section
/-! DEFINITION. Derived flags and conditions: `DRE` (10_state.md R35, R55), the CTS stop condition
(42_uart_events.md R157), and when each interrupt source is pending (60_exceptions.md R225). -/

namespace Sys2Proof.Machine

/-- `DRE`: the holding register is empty (R35). -/
def Uart.dre (u : Uart) : Bool := u.txhold.isNone

/-- CTS is bound and asserted: the remote says stop (R157). -/
def ctsStop (p : Params) (u : Uart) : Bool := p.ctsBound && u.ctsIn

/-- The UART receive source is pending (R225). -/
def Uart.rxPending (u : Uart) : Bool := u.rxcie && (u.dr || u.rxSpur)

/-- The UART transmit-empty source is pending (R225). -/
def Uart.drePending (u : Uart) : Bool := u.dreie && u.dre

/-- The CTS edge source is pending (R225). -/
def Uart.ctsPending (u : Uart) : Bool := u.ctsIe && u.ctsEdge

/-- One of the flags that make the TWI source pending is set (R225, R120). -/
def Twi.anyFlag (t : Twi) : Bool := t.wif || t.rif || t.arbf || t.berf

/-- The TWI source is pending (R225). -/
def Twi.pending (t : Twi) : Bool := t.irqen && t.anyFlag

/-- A source is pending (R225): a level, derived and not stored. -/
def State.pending (s : State) : IrqSource → Bool
  | .uartRx => s.uart.rxPending
  | .uartDre => s.uart.drePending
  | .uartCts => s.uart.ctsPending
  | .twi => s.twi.pending

/-- A dispatcher step for a source is enabled: `IE = 1` and the source is pending (R228). -/
def State.dispatchEnabled (s : State) (src : IrqSource) : Bool := s.ie && s.pending src

end Sys2Proof.Machine
end

