-- ==== Sys2Proof/Machine/BusEvents.lean ====
section
/-! DEFINITION. The `BUS` stimuli (44_twi_events.md R196 to R201). Each is enabled only in the engine
states that can produce it (D38). -/

namespace Sys2Proof.Machine

/-- `EV_TWI_ACK` is enabled (R196). -/
def Eng.canAck (e : Eng) : Bool := e = .addrW || e = .dataW

/-- `EV_TWI_NACK` is enabled (R197). -/
def Eng.canNack (e : Eng) : Bool := e = .addrW || e = .addrR || e = .dataW

/-- `EV_TWI_RXBYTE` is enabled (R198). -/
def Eng.canReceive (e : Eng) : Bool := e = .addrR || e = .recv

/-- A transfer is pending, so arbitration may be lost or the bus may err (R199, R200). -/
def Eng.inTransfer (e : Eng) : Bool := e = .addrW || e = .addrR || e = .dataW || e = .recv

/-- `EV_TWI_BUS_IDLE` is enabled (R201). -/
def Twi.canGoIdle (t : Twi) : Bool :=
  t.begun && !t.busIdle &&
    (t.eng = .stop || (t.eng = .none && (t.tstate = .arbLost || t.tstate = .busError) && !t.anyFlag))

/-- `EV_TWI_ACK` (R196). -/
def execEvTwiAck (s : State) : Host.Outcome State Fault Refusal :=
  stimulus s.twi.eng.canAck (s.setTwi { s.twi with eng := .none, nackf := false, wif := true })

/-- `EV_TWI_NACK` (R197). -/
def execEvTwiNack (s : State) : Host.Outcome State Fault Refusal :=
  stimulus s.twi.eng.canNack (s.setTwi { s.twi with eng := .none, nackf := true, wif := true })

/-- `EV_TWI_RXBYTE` (R198). -/
def execEvTwiRxbyte (data : Byte) (s : State) : Host.Outcome State Fault Refusal :=
  stimulus s.twi.eng.canReceive
    (s.setTwi { s.twi with eng := .none, dataIn := data, nackf := false, rif := true })

/-- `EV_TWI_ARBLOST` (R199). -/
def execEvTwiArblost (s : State) : Host.Outcome State Fault Refusal :=
  stimulus s.twi.eng.inTransfer (s.setTwi { s.twi with eng := .none, arbf := true })

/-- `EV_TWI_BUSERR` (R200). -/
def execEvTwiBuserr (s : State) : Host.Outcome State Fault Refusal :=
  stimulus s.twi.eng.inTransfer (s.setTwi { s.twi with eng := .none, berf := true })

/-- `EV_TWI_BUS_IDLE` (R201). -/
def execEvTwiBusIdle (s : State) : Host.Outcome State Fault Refusal :=
  stimulus s.twi.canGoIdle (s.setTwi { s.twi with eng := .none, busIdle := true })

end Sys2Proof.Machine
end

