-- ==== Sys2Proof/Machine/LineEvents.lean ====
section
/-! DEFINITION. The `LINE` stimuli (42_uart_events.md R150 to R153). A stimulus gives no response
(30_encoding.md R103) and does not depend on `IE` (20_memory.md R87). -/

namespace Sys2Proof.Machine

/-- The channel after a byte arrives: kept only if the receiver is on and the data register is free
(R150). -/
def Uart.rxArrive (u : Uart) (b : Byte) : Uart :=
  let u := { u with uartIn := u.uartIn ++ [b] }
  if u.rxen && !u.dr then { u with udrRx := b, dr := true } else u

/-- `EV_RX_BYTE` (R150): always enabled. -/
def execEvRxByte (data : Byte) (s : State) : Host.Outcome State Fault Refusal :=
  stimulus true (s.setUart (s.uart.rxArrive data))

/-- `EV_RX_SPURIOUS` (R151). -/
def execEvRxSpurious (s : State) : Host.Outcome State Fault Refusal :=
  stimulus s.uart.rxen (s.setUart { s.uart with rxSpur := true })

/-- The channel after the shifted byte has left the wire (R152). -/
def Uart.shiftDone (u : Uart) : Uart :=
  { u with
    uartOut := u.uartOut ++ u.txshift.toList
    txshift := u.txhold
    txhold := none
    txc := if u.txhold = none then true else u.txc }

/-- `EV_TX_SHIFT_DONE` (R152). -/
def execEvTxShiftDone (s : State) : Host.Outcome State Fault Refusal :=
  stimulus s.uart.txshift.isSome (s.setUart s.uart.shiftDone)

/-- `EV_CTS` (R153): only a change of level is a step. -/
def execEvCts (level : Bool) (s : State) : Host.Outcome State Fault Refusal :=
  stimulus (s.cfg.ctsBound && level != s.uart.ctsIn)
    (s.setUart { s.uart with ctsIn := level, ctsEdge := true })

end Sys2Proof.Machine
end

