-- ==== Sys2Proof/Machine/Handlers.lean ====
section
/-! DEFINITION. The four interrupt handlers (42_uart_events.md R156 to R158, 44_twi_events.md R202 to
R206). Taking an interrupt saves nothing and changes no mode, and a handler returns by ending
(60_exceptions.md R231, R232): so a handler run is its body, and the dispatcher and the host's replay run
the same body (40_sys.md R120, R233). UART handlers touch the channel alone, the TWI handler the
controller alone. -/

namespace Sys2Proof.Machine

/-- The part of `ISR_UART_RX` before the store (R156): RTS is asserted if the ring is near full, the data
register is read unconditionally, and the spurious request is cleared. -/
def rxAccept (p : Params) (u : Uart) : Bool × Byte × Uart :=
  let rts := if p.rtsBound && u.rxb.nearFull p.nRx rtsMargin then true else u.rtsAsserted
  let (valid, b, u) := { u with rtsAsserted := rts }.hwRxRead
  (valid, b, { u with rxSpur := false })

/-- `ISR_UART_RX` (R156). -/
def isrUartRx (p : Params) (u : Uart) : Except Fault Uart :=
  let (valid, b, u) := rxAccept p u
  if valid then do
    let rb ← u.rxb.store .rxb p.nRx b
    .ok { u with rxb := rb }
  else .ok u

/-- `ISR_UART_DRE` (R157). -/
def isrUartDre (p : Params) (u : Uart) : Except Fault Uart :=
  if ctsStop p u || u.txb.empty then
    let u := { u with dreie := false }
    if ctsStop p u && p.ctsEdgeIrq then .ok { u with ctsEdge := false, ctsIe := true } else .ok u
  else do
    let (b, rb) ← u.txb.take .txb p.nTx
    let u := { u with txb := rb }
    match b with
    | some b => .ok (u.hwTxWrite b)
    | none => .ok u

/-- `ISR_UART_CTS` (R158). -/
def isrUartCts (u : Uart) : Uart :=
  let u := { u with ctsEdge := false }
  if u.ctsIn then { u with ctsIe := false }
  else if u.txb.empty then u
  else { u with dreie := true }

/-- The ARB branch (R203). -/
def twiArbBranch (t : Twi) : Twi :=
  { t with arbf := false, wif := false, rif := false, tresult := TwiResult.arbLost.code, tstate := .arbLost }

/-- The BUSERR branch (R204). -/
def twiBusErrBranch (t : Twi) : Twi :=
  { t with berf := false, wif := false, rif := false, tresult := TwiResult.busError.code, tstate := .busError }

/-- The end of a transaction in the handler: the result is recorded and the machine is idle (R205, R206). -/
def Twi.finish (t : Twi) (r : TwiResult) : Twi := { t with tresult := r.code, tstate := .idle }

/-- The WRITE branch (R205). -/
def twiWriteBranch (t : Twi) : Except Fault Twi :=
  if t.nackf then .ok (t.stop.finish .nack)
  else if t.sendbuf.remaining > 0 then do
    let (b, sb) ← t.sendbuf.get .sendbuf t.cap
    let t := { t with sendbuf := sb }
    match b with
    | some b => .ok { t.dataWrite b with tstate := .writingData }
    | none => .ok t
  else if t.srs > 0 then .ok { t.addrRestart (slaRepeat t.sla) with tstate := .repeatedStart }
  else .ok (t.stop.finish .success)

/-- The first half of the READ branch (R206): keep the byte if one is still expected. A `Put` that is
refused changes nothing (R75). -/
def twiKeepByte (t : Twi) : Except Fault Twi :=
  if t.srs > 0 then do
    let (_, rb) ← t.recvbuf.put .recvbuf t.cap t.dataIn
    .ok { t with recvbuf := rb, srs := t.srs - 1 }
  else .ok t

/-- The second half of the READ branch (R206): ask for another byte, or end the transfer. -/
def twiReadNext (t : Twi) : Twi :=
  if t.srs > 0 then { t.ackContinue with tstate := .readingData }
  else Twi.finish { t.nackStop with recvbuf := t.recvbuf.flip } .success

/-- The READ branch (R206). -/
def twiReadBranch (t : Twi) : Except Fault Twi := do
  let t ← twiKeepByte t
  .ok (twiReadNext t)

/-- `ISR_TWI`: the first matching branch, in the source's order (R202). -/
def isrTwi (t : Twi) : Except Fault Twi :=
  if t.arbf then .ok (twiArbBranch t)
  else if t.berf then .ok (twiBusErrBranch t)
  else if t.wif then twiWriteBranch t
  else if t.rif then twiReadBranch t
  else .ok t

/-- The handler of a source (R225), on the whole state: `IE` and the host's state are untouched (R231). -/
def runHandler (src : IrqSource) (s : State) : Except Fault State :=
  match src with
  | .uartRx => do
    let u ← isrUartRx s.cfg s.uart
    .ok (s.setUart u)
  | .uartDre => do
    let u ← isrUartDre s.cfg s.uart
    .ok (s.setUart u)
  | .uartCts => .ok (s.setUart (isrUartCts s.uart))
  | .twi => do
    let t ← isrTwi s.twi
    .ok (s.setTwi t)

end Sys2Proof.Machine
end

