-- ==== Sys2Proof/Machine/Wait.lean ====
section
/-! DEFINITION. The wait construct of blocking commands (40_sys.md R118 to R121): a condition, a retry
and a post-part, run by an issue step and by poll steps. -/

namespace Sys2Proof.Machine

/-- `wait until C; retry R` with its post-part. The condition and the retry may depend on `entryIE`. -/
structure Waiting where
  kind : WaitKind
  ready : Bool → State → Bool
  retry : Bool → State → Except Fault State
  post : State → Except Fault State

/-- The issue step, after the pre-part (R118): `entryIE` is `IE` when the command is issued. -/
def Waiting.issue (w : Waiting) (cmd : Instr) (s : State) : Except Fault State :=
  if w.ready s.ie s then w.post s
  else do
    let t ← w.retry s.ie s
    .ok (t.setHost (.wait w.kind s.ie cmd))

/-- The poll step (R118, R121). -/
def Waiting.poll (w : Waiting) (entryIE : Bool) (s : State) : Except Fault State :=
  if w.ready entryIE s then do
    let t ← w.post s
    .ok (t.setHost .idle)
  else w.retry entryIE s

/-- The UART replay of R120: `ISR_UART_DRE` if its hardware flag is set, whatever its enable. -/
def replayDre (s : State) : Except Fault State :=
  if s.uart.dre then runHandler .uartDre s else .ok s

/-- The TWI replay of R120: `ISR_TWI` if one of its hardware flags is set, whatever its enable. -/
def replayTwi (s : State) : Except Fault State :=
  if s.twi.anyFlag then runHandler .twi s else .ok s

/-- The retry of the TWI waits: nothing with interrupts enabled (R119), the replay without (R120). -/
def twiRetry (entryIE : Bool) (s : State) : Except Fault State :=
  if entryIE then .ok s else replayTwi s

end Sys2Proof.Machine
end

