-- ==== Sys2Proof/Machine/Sys.lean ====
section
/-! DEFINITION. The `SYS` commands (40_sys.md R115, R116). -/

namespace Sys2Proof.Machine

/-- `SYS_CLI` (R115). -/
def execSysCli (s : State) : Host.Outcome State Fault Refusal :=
  hostCommand (fun s => .ok ({ s with ie := false }.respond 0)) s

/-- `SYS_SEI` (R116). -/
def execSysSei (s : State) : Host.Outcome State Fault Refusal :=
  hostCommand (fun s => .ok ({ s with ie := true }.respond 0)) s

end Sys2Proof.Machine
end

