-- ==== Sys2Proof/Machine/TwiCommands.lean ====
section
/-! DEFINITION. The `TWI` commands (43_twi.md R170 to R181). -/

namespace Sys2Proof.Machine

/-- Seven commands fault `NOT_BEGUN` before `TWI_BEGIN` (R222). -/
def ifTwiBegun (body : State → Except Fault State) (s : State) : Except Fault State :=
  if s.twi.begun then body s else .ok (s.raise .notBegun)

/-- The controller that a successful `TWI_BEGIN` leaves (R170): both memories are new, their contents
the next two draws (log 4). -/
def Twi.begin (p : Params) (own : Byte) (speed : BitVec 4) (cap : Nat) (t : Twi) : Twi :=
  { t with
    cap := cap
    sendbuf := (t.sendbuf.allocate t.allocs).clear cap
    recvbuf := (t.recvbuf.allocate (t.allocs + 1)).clear cap
    allocs := t.allocs + 2
    ownAddr := own, speed := speed, div := twiDivisor p speed
    irqen := true
    wif := false, rif := false, nackf := false, arbf := false, berf := false, eng := .none
    srs := 0, txActive := false, werr := 0
    tresult := TwiResult.none.code, tstate := .idle
    busIdle := true
    begun := true }

/-- `TWI_BEGIN` (R170): the checks run in the order shown there. -/
def execTwiBegin (own : Byte) (speed : BitVec 4) (cap : Nat) (s : State) : Host.Outcome State Fault Refusal :=
  hostCommand (fun s =>
    if s.twi.begun && !s.twi.busIdle then .ok (s.raise .twiBusy)
    else if !validSpeed speed then .ok (s.respond (respStatus .invalidSpeed))
    else if cap = 0 then .ok (s.respond (respStatus .invalidCapacity))
    else if cap > s.cfg.twiBufMax then .ok (s.respond (respStatus .bufferAllocationFailure))
    else .ok ((s.setTwi (s.twi.begin s.cfg own speed cap)).respond (respStatus .ok))) s

/-- The controller composing a write to a valid address (R171). -/
def Twi.compose (addr : Byte) (t : Twi) : Twi :=
  { t with sla := slaWrite addr, sendbuf := t.sendbuf.clear t.cap, txActive := true, werr := 0 }

/-- The wait of `TWI_BEGIN_TX`, for an idle bus; the address is tested after it (R171). -/
def twiBeginTxWaiting (addr : Byte) : Waiting where
  kind := .tBeginTx
  ready := fun _ s => s.twi.busIdle
  retry := twiRetry
  post := fun s =>
    if validAddr addr then .ok ((s.setTwi (s.twi.compose addr)).respond (respStatus .ok))
    else .ok (s.respond (respStatus .invalidAddress))

/-- `TWI_BEGIN_TX` (R171). -/
def execTwiBeginTx (addr : Byte) (s : State) : Host.Outcome State Fault Refusal :=
  hostCommand (ifTwiBegun ((twiBeginTxWaiting addr).issue (.twiBeginTx addr))) s

/-- A refused `TWI_WRITE`: the error is recorded and no byte is accepted (R172). -/
def twiWriteError (st : Status) (s : State) : State := (s.setTwi { s.twi with werr := st.code }).respond 0

/-- `TWI_WRITE` (R172). -/
def execTwiWrite (data : Byte) (s : State) : Host.Outcome State Fault Refusal :=
  hostCommand (ifTwiBegun fun s =>
    if s.twi.txActive then do
      let (accepted, sb) ← s.twi.sendbuf.put .sendbuf s.twi.cap data
      if accepted then .ok ((s.setTwi { s.twi with sendbuf := sb }).respond 1)
      else .ok (twiWriteError .sendBufferFull s)
    else .ok (twiWriteError .writeNotStarted s)) s

/-- The controller with the composed write started (R173). -/
def Twi.launchWrite (count : Nat) (t : Twi) : Twi :=
  { t with
    sendbuf := t.sendbuf.flip, recvbuf := t.recvbuf.clear t.cap
    srs := count, txActive := false, tstate := .addressPending }.addrStart t.sla

/-- `TWI_END_TX` (R173): the checks run in the order shown there. -/
def execTwiEndTx (count : Nat) (s : State) : Host.Outcome State Fault Refusal :=
  hostCommand (ifTwiBegun fun s =>
    if !s.twi.txActive then .ok (s.respond (respStatus .writeNotStarted))
    else if count > s.twi.cap then .ok (s.respond (respStatus .invalidCount))
    else if !s.twi.busIdle then .ok (s.raise .twiBusy)
    else .ok ((s.setTwi (s.twi.launchWrite count)).respond (respStatus .ok))) s

/-- The controller with a read started (R174). -/
def Twi.launchRead (addr : Byte) (count : Nat) (t : Twi) : Twi :=
  { t with
    sendbuf := t.sendbuf.clear t.cap, recvbuf := t.recvbuf.clear t.cap
    srs := count, sla := slaRead addr, txActive := false
    tstate := .addressPending }.addrStart (slaRead addr)

/-- The wait of `TWI_REQUEST`, for an idle bus; the operands are tested after it, the address first
(R174). -/
def twiRequestWaiting (addr : Byte) (count : Nat) : Waiting where
  kind := .tRequest
  ready := fun _ s => s.twi.busIdle
  retry := twiRetry
  post := fun s =>
    if !validAddr addr then .ok (s.respond (respStatus .invalidAddress))
    else if count = 0 ∨ count > s.twi.cap then .ok (s.respond (respStatus .invalidCount))
    else .ok ((s.setTwi (s.twi.launchRead addr count)).respond (respStatus .ok))

/-- `TWI_REQUEST` (R174). -/
def execTwiRequest (addr : Byte) (count : Nat) (s : State) : Host.Outcome State Fault Refusal :=
  hostCommand (ifTwiBegun ((twiRequestWaiting addr count).issue (.twiRequest addr count))) s

/-- The wait of `TWI_AVAILABLE`, for the read phase to end (R175). -/
def twiAvailableWaiting : Waiting where
  kind := .tAvailable
  ready := fun _ s => s.twi.srs == 0
  retry := twiRetry
  post := fun s => .ok (s.respond (respCount s.twi.recvbuf.remaining))

/-- `TWI_AVAILABLE` (R175). -/
def execTwiAvailable (s : State) : Host.Outcome State Fault Refusal :=
  hostCommand (ifTwiBegun (twiAvailableWaiting.issue .twiAvailable)) s

/-- `TWI_READ` (R176). -/
def execTwiRead (s : State) : Host.Outcome State Fault Refusal :=
  hostCommand (ifTwiBegun fun s => do
    let (b, rb) ← s.twi.recvbuf.get .recvbuf s.twi.cap
    .ok ((s.setTwi { s.twi with recvbuf := rb }).respond (respOption b))) s

/-- `TWI_PEEK` (R177). -/
def execTwiPeek (s : State) : Host.Outcome State Fault Refusal :=
  hostCommand (ifTwiBegun fun s => do
    let b ← s.twi.recvbuf.peekB .recvbuf s.twi.cap
    .ok (s.respond (respOption b))) s

/-- `TWI_FLUSH`: no effect but the response (R178, D41). -/
def execTwiFlush (s : State) : Host.Outcome State Fault Refusal :=
  hostCommand (fun s => .ok (s.respond 0)) s

/-- `TWI_READY` (R179). -/
def execTwiReady (s : State) : Host.Outcome State Fault Refusal :=
  hostCommand (fun s => .ok (s.respond (respBool s.twi.busIdle))) s

/-- `TWI_RESULT` (R180). -/
def execTwiResult (s : State) : Host.Outcome State Fault Refusal :=
  hostCommand (fun s => .ok (s.respond (respByte s.twi.tresult))) s

/-- `TWI_WRERR`: reading does not clear it (R181). -/
def execTwiWrerr (s : State) : Host.Outcome State Fault Refusal :=
  hostCommand (fun s => .ok (s.respond (respByte s.twi.werr))) s

end Sys2Proof.Machine
end

