-- ==== Sys2Proof/Machine/UartCommands.lean ====
section
/-! DEFINITION. The `UART` commands (41_uart.md R127 to R133). -/

namespace Sys2Proof.Machine

/-- The channel that a successful `UART_BEGIN` leaves, `t` being the timing value (R127). -/
def Uart.begin (p : Params) (frame : BitVec 4) (baud : Nat) (t : BitVec 16) (u : Uart) : Uart :=
  { u with
    rxb := { u.rxb with head := 0, tail := 0 }
    txb := { u.txb with head := 0, tail := 0 }
    frame := frame, timing := t, u2x := doubleSpeed baud
    rtsDriven := if p.rtsBound then true else u.rtsDriven
    rtsAsserted := if p.rtsBound then false else u.rtsAsserted
    dreie := false, ctsIe := false, ctsEdge := false
    transmitting := false
    rxen := true, txen := true, rxcie := true
    begun := true }

/-- `UART_BEGIN` (R127): a baud that does not resolve is refused by status, and nothing changes. -/
def execUartBegin (frame : BitVec 4) (baud : Nat) (s : State) : Host.Outcome State Fault Refusal :=
  hostCommand (fun s =>
    match baudResolve s.cfg baud (doubleSpeed baud) with
    | none => .ok (s.respond (respStatus .unsupportedBaud))
    | some t => .ok ((s.setUart (s.uart.begin s.cfg frame baud t)).respond (respStatus .ok))) s

/-- The channel that `UART_END` leaves once its wait is over (R128). -/
def Uart.close (u : Uart) : Uart :=
  { u.disableRx with
    txen := false
    rxcie := false, dreie := false, ctsIe := false
    rxb := { u.rxb with tail := u.rxb.head }
    txb := { u.txb with tail := u.txb.head }
    transmitting := false
    begun := false }

/-- The wait of `UART_END`: only with `entryIE = 1`, for the TX ring to drain (R128). -/
def uartEndWaiting : Waiting where
  kind := .uEnd
  ready := fun entryIE s => !entryIE || s.uart.txb.empty
  retry := fun _ s => .ok s
  post := fun s => .ok ((s.setUart s.uart.close).respond 0)

/-- `UART_END` (R128). -/
def execUartEnd (s : State) : Host.Outcome State Fault Refusal :=
  hostCommand (uartEndWaiting.issue .uartEnd) s

/-- `UART_AVAILABLE` (R129). -/
def execUartAvailable (s : State) : Host.Outcome State Fault Refusal :=
  hostCommand (fun s => .ok (s.respond (respCount (s.uart.rxb.occ s.cfg.nRx)))) s

/-- `UART_PEEK` (R130). -/
def execUartPeek (s : State) : Host.Outcome State Fault Refusal :=
  hostCommand (fun s => do
    let b ← s.uart.rxb.front .rxb s.cfg.nRx
    .ok (s.respond (respOption b))) s

/-- RTS after a read: released if the ring was not near full before the byte is removed (R131). -/
def rtsAfterRead (p : Params) (u : Uart) : Bool :=
  if p.rtsBound && !u.rxb.nearFull p.nRx rtsMargin then false else u.rtsAsserted

/-- `UART_READ` (R131). -/
def execUartRead (s : State) : Host.Outcome State Fault Refusal :=
  hostCommand (fun s =>
    if s.uart.rxb.empty then .ok (s.respond respNoByte)
    else do
      let (b, rb) ← s.uart.rxb.take .rxb s.cfg.nRx
      .ok ((s.setUart { s.uart with rxb := rb, rtsAsserted := rtsAfterRead s.cfg s.uart }).respond (respOption b))) s

/-- The post-part of `UART_WRITE`: store the byte, and let the transmit path run (R132). -/
def uartWritePost (data : Byte) (s : State) : Except Fault State := do
  let rb ← s.uart.txb.store .txb s.cfg.nTx data
  .ok ((s.setUart { s.uart with
    txb := rb, transmitting := true, rxcie := true, dreie := true, txc := false }).respond 1)

/-- The wait of `UART_WRITE`, for space in the TX ring (R132). -/
def uartWriteWaiting (data : Byte) : Waiting where
  kind := .uWrite
  ready := fun _ s => !s.uart.txb.full s.cfg.nTx
  retry := fun entryIE s =>
    if entryIE then .ok (s.setUart { s.uart with dreie := true }) else replayDre s
  post := uartWritePost data

/-- `UART_WRITE` (R132): on a channel that is not begun it faults `NOT_BEGUN`. -/
def execUartWrite (data : Byte) (s : State) : Host.Outcome State Fault Refusal :=
  hostCommand (fun s =>
    if s.uart.begun then (uartWriteWaiting data).issue (.uartWrite data) s
    else .ok (s.raise .notBegun)) s

/-- The wait of `UART_FLUSH`, for transmission to complete (R133). -/
def uartFlushWaiting : Waiting where
  kind := .uFlush
  ready := fun _ s => !(s.uart.transmitting && !s.uart.txc)
  retry := fun entryIE s => if entryIE then .ok s else replayDre s
  post := fun s => .ok ((s.setUart { s.uart with transmitting := false }).respond 0)

/-- `UART_FLUSH` (R133). -/
def execUartFlush (s : State) : Host.Outcome State Fault Refusal :=
  hostCommand (uartFlushWaiting.issue .uartFlush) s

end Sys2Proof.Machine
end

