-- ==== Sys2Proof/Machine/Dispatch.lean ====
section
/-! DEFINITION. exec: one arm per row of spec/opcode_table.json, each a call of that row's meaning. A
command's arm is its issue step (40_sys.md R117, R118); a stimulus's arm is its one step. -/

namespace Sys2Proof.Machine

def exec (i : Instr) (s : State) : Host.Outcome State Fault Refusal :=
  match i with
  | .sysCli => Sys2Proof.Machine.execSysCli s
  | .sysSei => Sys2Proof.Machine.execSysSei s
  | .uartBegin frame baud => Sys2Proof.Machine.execUartBegin frame baud s
  | .uartEnd => Sys2Proof.Machine.execUartEnd s
  | .uartAvailable => Sys2Proof.Machine.execUartAvailable s
  | .uartPeek => Sys2Proof.Machine.execUartPeek s
  | .uartRead => Sys2Proof.Machine.execUartRead s
  | .uartWrite data => Sys2Proof.Machine.execUartWrite data s
  | .uartFlush => Sys2Proof.Machine.execUartFlush s
  | .twiBegin own speed cap => Sys2Proof.Machine.execTwiBegin own speed cap s
  | .twiBeginTx addr => Sys2Proof.Machine.execTwiBeginTx addr s
  | .twiWrite data => Sys2Proof.Machine.execTwiWrite data s
  | .twiEndTx count => Sys2Proof.Machine.execTwiEndTx count s
  | .twiRequest addr count => Sys2Proof.Machine.execTwiRequest addr count s
  | .twiAvailable => Sys2Proof.Machine.execTwiAvailable s
  | .twiRead => Sys2Proof.Machine.execTwiRead s
  | .twiPeek => Sys2Proof.Machine.execTwiPeek s
  | .twiFlush => Sys2Proof.Machine.execTwiFlush s
  | .twiReady => Sys2Proof.Machine.execTwiReady s
  | .twiResult => Sys2Proof.Machine.execTwiResult s
  | .twiWrerr => Sys2Proof.Machine.execTwiWrerr s
  | .evRxByte data => Sys2Proof.Machine.execEvRxByte data s
  | .evRxSpurious => Sys2Proof.Machine.execEvRxSpurious s
  | .evTxShiftDone => Sys2Proof.Machine.execEvTxShiftDone s
  | .evCts level => Sys2Proof.Machine.execEvCts level s
  | .evTwiAck => Sys2Proof.Machine.execEvTwiAck s
  | .evTwiNack => Sys2Proof.Machine.execEvTwiNack s
  | .evTwiRxbyte data => Sys2Proof.Machine.execEvTwiRxbyte data s
  | .evTwiArblost => Sys2Proof.Machine.execEvTwiArblost s
  | .evTwiBuserr => Sys2Proof.Machine.execEvTwiBuserr s
  | .evTwiBusIdle => Sys2Proof.Machine.execEvTwiBusIdle s

end Sys2Proof.Machine
end

