-- ==== Sys2Proof/Machine/Agents.lean ====
section
/-! DEFINITION. What each agent's move does (00_scope.md R5, 60_exceptions.md R229): the Host's issue and
poll steps (40_sys.md R117, R118), the stimuli of the Line and the Bus (30_encoding.md R102), and the
Dispatcher's handler runs (R228). -/

namespace Sys2Proof.Machine

/-- The Host issues a word: an illegal one faults `ILLEGAL_COMMAND` (R100, R117). -/
def issueHost (w : Word) (s : State) : Host.Outcome State Fault Refusal :=
  match decode .host w with
  | .ok i => exec i s
  | .error _ => hostCommand (fun s => .ok (s.raise .illegalCommand)) s

/-- The Line or the Bus takes a stimulus word: a word that is no stimulus of its own unit is never
issued (R102). -/
def takeStimulus (o : Origin) (w : Word) (s : State) : Host.Outcome State Fault Refusal :=
  match decode o w with
  | .ok i => exec i s
  | .error _ => .refused .reservedStimulus

/-- The word `w` comes from `o`. -/
def takeWord (o : Origin) (w : Word) (s : State) : Host.Outcome State Fault Refusal :=
  match o with
  | .host => issueHost w s
  | .line => takeStimulus .line w s
  | .bus => takeStimulus .bus w s

/-- The wait that a command in `WAIT` is in, if `kind` is its kind (R24). -/
def waitingOf : WaitKind → Instr → Option Waiting
  | .uWrite, .uartWrite data => some (uartWriteWaiting data)
  | .uFlush, .uartFlush => some uartFlushWaiting
  | .uEnd, .uartEnd => some uartEndWaiting
  | .tBeginTx, .twiBeginTx addr => some (twiBeginTxWaiting addr)
  | .tRequest, .twiRequest addr count => some (twiRequestWaiting addr count)
  | .tAvailable, .twiAvailable => some twiAvailableWaiting
  | _, _ => none

/-- The Host's poll step (R118). -/
def pollHost (s : State) : Host.Outcome State Fault Refusal :=
  match s.hstate with
  | .idle => .refused .hostNotWaiting
  | .wait kind entryIE cmd =>
    match waitingOf kind cmd with
    | some w => toOutcome (w.poll entryIE s)
    | none => .refused .waitMismatch

/-- A dispatcher step (R228). -/
def dispatch (src : IrqSource) (s : State) : Host.Outcome State Fault Refusal :=
  if s.dispatchEnabled src then toOutcome (runHandler src s) else .refused .dispatchNotEnabled

/-- One move of one agent. -/
def takeMove (m : Move) (s : State) : Host.Outcome State Fault Refusal :=
  match m with
  | .word o w => takeWord o w s
  | .poll => pollHost s
  | .dispatch src => dispatch src s

/-- The next scheduled move, on the state that no longer schedules it. With nothing scheduled no agent
moves, and the block keeps its state (log 1). -/
def nextMove (s : State) : Host.Outcome State Fault Refusal :=
  match s.sched with
  | [] => .next s
  | m :: rest => takeMove m { s with sched := rest }

/-- `s` with word `w` as the next move, taken by the agent whose unit it names (log 8). -/
def State.scheduleWord (s : State) (w : Word) : State := { s with sched := .word (issuer w) w :: s.sched }

end Sys2Proof.Machine
end

