-- ==== Sys2Proof/Machine/Step.lean ====
section
/-! DEFINITION. One step of the block (60_exceptions.md R229): the next scheduled move. -/

namespace Sys2Proof.Machine

/-- One step: exactly one agent takes one enabled step (R229). -/
def step (s : State) : Host.Outcome State Fault Refusal := nextMove s

/-- `s` with a table word as its next move. The block fetches nothing (10_state.md R21): words arrive
from its agents, so the word is put at the front of the schedule and nothing else changes (log 8). -/
def State.withFetchWord (s : State) (nbits w : Nat) : State := s.scheduleWord (tableWord nbits w)

end Sys2Proof.Machine
end

