-- ==== Sys2Proof/Machine/Assembler.lean ====
section
/-! DEFINITION. The assembler's defaults, its text, and the pseudo-instructions with their expansions
(30_encoding.md R109 to R111). -/

namespace Sys2Proof.Machine

/-! ### Optional operands (R109) -/

/-- `uart.begin BAUD [, frame=F]`: `F` is 0 by default. -/
def asmUartBegin (baud : Nat) (frame : Option (BitVec 4)) : Instr := .uartBegin (frame.getD 0) baud

/-- `twi.begin CAP [, speed=S] [, own=A]`: `S` and `A` are 0 by default. -/
def asmTwiBegin (cap : Nat) (speed : Option (BitVec 4)) (own : Option Byte) : Instr :=
  .twiBegin (own.getD 0) (speed.getD 0) cap

/-- `twi.end_tx [COUNT]`: `COUNT` is 0 by default. -/
def asmTwiEndTx (count : Option Nat) : Instr := .twiEndTx (count.getD 0)

/-! ### Pseudo-instructions (R110) -/

/-- `twi.write_bytes b0, ..., bk`. -/
def asmTwiWriteBytes (bs : List Byte) : List Instr := bs.map .twiWrite

/-- The value of `twi.write_bytes`: the sum of the responses (D33). -/
def writeBytesValue (responses : List Word) : Nat := (responses.map BitVec.toNat).sum

/-- `twi.transmit A, [b0, ..., bk], C`. -/
def asmTwiTransmit (addr : Byte) (bs : List Byte) (count : Nat) : List Instr :=
  .twiBeginTx addr :: (asmTwiWriteBytes bs ++ [.twiEndTx count])

/-- `uart.print b0, ..., bk`. -/
def asmUartPrint (bs : List Byte) : List Instr := bs.map .uartWrite

/-- `twi.read_n k`. -/
def asmTwiReadN (k : Nat) : List Instr := .twiAvailable :: List.replicate k .twiRead

/-- `critical { body }`: correct only where `IE = 1` before it. -/
def asmCritical (body : List Instr) : List Instr := .sysCli :: (body ++ [.sysSei])

/-! ### Text (R109, R111) -/

/-- A number as the assembler reads it, in decimal. -/
def asmNum (n : Nat) : String := toString n

/-- One line of assembler text, every operand written out. -/
def asmText : Instr → String
  | .sysCli => "sys.cli"
  | .sysSei => "sys.sei"
  | .uartBegin frame baud => "uart.begin " ++ asmNum baud ++ ", frame=" ++ asmNum frame.toNat
  | .uartEnd => "uart.end"
  | .uartAvailable => "uart.available"
  | .uartPeek => "uart.peek"
  | .uartRead => "uart.read"
  | .uartWrite data => "uart.write " ++ asmNum data.toNat
  | .uartFlush => "uart.flush"
  | .twiBegin own speed cap =>
    "twi.begin " ++ asmNum cap ++ ", speed=" ++ asmNum speed.toNat ++ ", own=" ++ asmNum own.toNat
  | .twiBeginTx addr => "twi.begin_tx " ++ asmNum addr.toNat
  | .twiWrite data => "twi.write " ++ asmNum data.toNat
  | .twiEndTx count => "twi.end_tx " ++ asmNum count
  | .twiRequest addr count => "twi.request " ++ asmNum addr.toNat ++ ", " ++ asmNum count
  | .twiAvailable => "twi.available"
  | .twiRead => "twi.read"
  | .twiPeek => "twi.peek"
  | .twiFlush => "twi.flush"
  | .twiReady => "twi.ready"
  | .twiResult => "twi.result"
  | .twiWrerr => "twi.wrerr"
  | .evRxByte data => "line.rx " ++ asmNum data.toNat
  | .evRxSpurious => "line.spurious"
  | .evTxShiftDone => "line.shift_done"
  | .evCts level => "line.cts " ++ asmNum level.toNat
  | .evTwiAck => "bus.ack"
  | .evTwiNack => "bus.nack"
  | .evTwiRxbyte data => "bus.rx " ++ asmNum data.toNat
  | .evTwiArblost => "bus.arblost"
  | .evTwiBuserr => "bus.buserr"
  | .evTwiBusIdle => "bus.idle"

/-- A dispatcher step in a trace (R111). -/
def irqText : IrqSource → String
  | .uartRx => "isr.rx"
  | .uartDre => "isr.dre"
  | .uartCts => "isr.cts"
  | .twi => "isr.twi"

end Sys2Proof.Machine
end

