-- ==== Sys2Proof/Safety.lean ====
section
/-! DEFINITION. The terms claims use: the invariant (10_state.md R64 and what it needs to be inductive),
the contents of a ring, finished and stalled states (60_exceptions.md R241), finite runs, and infinite runs with their
fairness (R229) and hangs (40_sys.md R123). -/

namespace Sys2Proof.Machine

/-! ### Encodings -/

/-- The encoding line of a command or stimulus rule: the words with `w AND mask = pattern`, issued by `o`,
decode to `read w` (30_encoding.md R94 to R99). -/
def DecodesAs (o : Origin) (mask pattern : Word) (read : Word → Instr) : Prop :=
  ∀ w : Word, w &&& mask = pattern → decode o w = .ok (read w)

/-! ### The invariant -/

/-- A ring of `n` slots in a legal state (R26, R64). -/
structure RingBuffer.Wf (id : MemId) (n : Nat) (rb : RingBuffer) : Prop where
  head_lt : rb.head < n
  tail_lt : rb.tail < n
  occ_le : rb.occ n ≤ n - 1
  storage_wf : rb.storage.wf id n = true

/-- A TWI buffer in a legal state (R64, R73). -/
structure TwiBuffer.Wf (id : MemId) (cap : Nat) (tb : TwiBuffer) : Prop where
  pos_le : tb.pos ≤ tb.lim
  lim_le : tb.lim ≤ cap
  fill_lim : tb.mode = .fill → tb.lim = cap
  data_wf : tb.data.wf id cap = true

/-- What holds of the UART channel in every run. -/
structure Uart.Inv (p : Params) (u : Uart) : Prop where
  rxb : u.rxb.Wf .rxb p.nRx
  txb : u.txb.Wf .txb p.nTx
  /-- the enables that `UART_BEGIN` sets and `UART_END` clears (R31, R32) -/
  enables : u.rxen = u.begun ∧ u.txen = u.begun ∧ u.rxcie = u.begun
  /-- a channel that is not begun has nothing to send and cannot be interrupted (R128) -/
  closed : u.begun = false → u.dreie = false ∧ u.ctsIe = false ∧ u.transmitting = false
  /-- the receive flags need the receiver (R33, R34) -/
  rxFlags : u.rxen = false → u.dr = false ∧ u.rxSpur = false
  /-- the holding register is filled behind the shift register (R154) -/
  pipeline : u.txshift = none → u.txhold = none
  /-- an unbound RTS pin is never driven (R37), and a begun channel drives a bound one (R127) -/
  rts : (u.rtsDriven = true → p.rtsBound = true) ∧ (u.rtsAsserted = true → u.rtsDriven = true) ∧
    (u.begun = true → u.rtsDriven = p.rtsBound)
  /-- the CTS edge is seen only on a bound pin, and armed only where the pin can interrupt (R153, R157) -/
  cts : (u.ctsEdge = true → p.ctsBound = true) ∧ (u.ctsIe = true → p.ctsBound = true ∧ p.ctsEdgeIrq = true)
  /-- the timing value of a begun channel is one of the table's (R56) -/
  timing : u.begun = true → ∃ i, u.timing = baudTable p u.u2x i

/-- The bus engine and the transaction state agree (R207). -/
structure Twi.Phase (t : Twi) : Prop where
  addrW : t.eng = .addrW → t.tstate = .addressPending
  addrR : t.eng = .addrR → t.tstate = .addressPending ∨ t.tstate = .repeatedStart
  dataW : t.eng = .dataW → t.tstate = .writingData
  recv : t.eng = .recv → t.tstate = .readingData
  stop : t.eng = .stop → t.tstate = .idle ∧ (t.tresult = TwiResult.success.code ∨ t.tresult = TwiResult.nack.code)
  wif : t.wif = true → t.tstate = .addressPending ∨ t.tstate = .writingData ∨ (t.nackf = true ∧ t.tstate = .repeatedStart)
  rif : t.rif = true → t.tstate = .addressPending ∨ t.tstate = .repeatedStart ∨ t.tstate = .readingData
  error : t.arbf = true ∨ t.berf = true →
    t.tstate = .addressPending ∨ t.tstate = .writingData ∨ t.tstate = .repeatedStart ∨ t.tstate = .readingData
  quiet : t.begun = true → t.busIdle = false → t.eng = .none → t.anyFlag = false →
    (t.tstate = .arbLost ∧ t.tresult = TwiResult.arbLost.code) ∨
      (t.tstate = .busError ∧ t.tresult = TwiResult.busError.code)
  idle : t.busIdle = true → t.tstate = .idle ∨ t.tstate = .arbLost ∨ t.tstate = .busError

/-- At most one of the four flags that make the TWI source pending is set (R64, R202). -/
def Twi.oneFlag (t : Twi) : Prop :=
  (t.wif = true → t.rif = false ∧ t.arbf = false ∧ t.berf = false) ∧
  (t.rif = true → t.arbf = false ∧ t.berf = false) ∧ (t.arbf = true → t.berf = false)

/-- What holds of the TWI controller in every run. -/
structure Twi.Inv (p : Params) (t : Twi) : Prop where
  cap_le : t.cap ≤ p.twiBufMax
  sendbuf : t.sendbuf.Wf .sendbuf t.cap
  recvbuf : t.recvbuf.Wf .recvbuf t.cap
  srs_le : t.srs ≤ t.cap
  oneFlag : t.oneFlag
  /-- R64 -/
  flagEng : t.anyFlag = true → t.eng = .none
  /-- a write is composed only on an idle bus (R64, R183) -/
  composing : t.txActive = true →
    t.begun = true ∧ t.busIdle = true ∧ t.sendbuf.mode = .fill ∧ t.sla.getLsbD 0 = false
  /-- an idle bus has nothing pending (R183) -/
  idle : t.busIdle = true → t.begun = true ∧ t.eng = .none ∧ t.anyFlag = false
  irqen : t.irqen = t.begun
  /-- before `TWI_BEGIN` (R41, R245) -/
  unbegun : t.begun = false → t.cap = 0 ∧ t.eng = .none ∧ t.anyFlag = false
  /-- after `TWI_BEGIN` (R170) -/
  begun : t.begun = true → 0 < t.cap ∧ validSpeed t.speed = true ∧ t.div = twiDivisor p t.speed
  /-- a read phase expects a byte (R206) -/
  expecting : t.eng = .addrR ∨ t.eng = .recv ∨ t.rif = true → 0 < t.srs
  /-- the receive buffer has room for what is expected (R206) -/
  room : 0 < t.srs → t.recvbuf.mode = .fill ∧ t.recvbuf.pos + t.srs ≤ t.cap
  phase : t.Phase
  /-- legal codes (R46, R47) -/
  codes : (t.werr = 0 ∨ t.werr = Status.writeNotStarted.code ∨ t.werr = Status.sendBufferFull.code) ∧
    t.tresult.toNat ≤ 4

/-- What holds of the host's wait (R24, R118, R121, R128): it is one of the six, its `entryIE` is the
current `IE`, and the channel or controller it waits on is begun. -/
def State.HostInv (s : State) : Prop :=
  match s.hstate with
  | .idle => True
  | .wait kind entryIE cmd =>
    (waitingOf kind cmd).isSome = true ∧ entryIE = s.ie ∧
      match kind with
      | .uWrite | .uFlush => s.uart.begun = true
      | .uEnd => entryIE = true
      | .tBeginTx | .tRequest | .tAvailable => s.twi.begun = true

/-- The invariant that every step keeps (R64). -/
structure State.Inv (s : State) : Prop where
  uart : s.uart.Inv s.cfg
  twi : s.twi.Inv s.cfg
  host : s.HostInv
  /-- R23, R107 -/
  fault : s.fault.toNat ≤ 3

/-! ### Ring contents and paths -/

/-- The bytes a ring holds, oldest first: `Occ` slots from `tail` on (R72). -/
def RingBuffer.contents (id : MemId) (n : Nat) (rb : RingBuffer) : List Byte :=
  (List.range (rb.occ n)).map fun k => rb.storage.byteAt id 0 ((rb.tail + k) % n)

/-- The bytes on the transmit path that have been written, oldest first: those that left the wire, the
shift and holding registers, and the ring (R161). -/
def Uart.txPath (p : Params) (u : Uart) : List Byte :=
  u.uartOut ++ u.txshift.toList ++ u.txhold.toList ++ u.txb.contents .txb p.nTx

/-- The bytes a TWI buffer has yet to give, oldest first (R73, R78). -/
def TwiBuffer.unread (id : MemId) (tb : TwiBuffer) : List Byte :=
  (List.range tb.remaining).map fun k => tb.data.byteAt id tb.draw (tb.pos + k)

/-- A transaction is in flight (R183). -/
def Twi.inFlight (t : Twi) : Bool := t.begun && !t.busIdle

/-! ### The end of a run (R241) -/

/-- Some source is pending (R225). -/
def State.anyPending (s : State) : Bool :=
  s.uart.rxPending || s.uart.drePending || s.uart.ctsPending || s.twi.pending

/-- A move of the Host that issues a command. -/
def Move.issuesCommand : Move → Bool
  | .word .host _ => true
  | .word .line _ | .word .bus _ | .poll | .dispatch _ => false

/-- The host program is done: no command is left to issue, and none is in progress (R241, clause 1). -/
def State.hostDone (s : State) : Bool := s.hstate = .idle && s.sched.all fun m => !m.issuesCommand

/-- Nothing is left on the transmit path (R241, clause 4). -/
def Uart.drained (u : Uart) : Bool := u.txshift.isNone && u.txhold.isNone && u.txb.empty

/-- No transaction is in flight (R241, clause 5). -/
def Twi.quiescent (t : Twi) : Bool := t.eng = .none && !t.anyFlag && (!t.begun || t.busIdle)

/-- A finished state (R241): with `IE = 1` no dispatcher step is enabled, and with `IE = 0` no source is
pending either, so clause 3 says that no source is pending. -/
def State.finished (s : State) : Bool :=
  s.hostDone && s.fault = 0 && !s.anyPending && s.uart.drained && s.twi.quiescent

/-- A stalled state (R241): the program is done but clause 4 or 5 fails. -/
def State.stalled (s : State) : Bool := s.hostDone && !(s.uart.drained && s.twi.quiescent)

/-! ### Sequences of ring operations (R72) -/

/-- An operation on a ring. -/
inductive RingOp where
  | store (b : Byte)
  | take
  deriving DecidableEq, Repr

/-- What a list of operations does to a ring: the results of its `take`s, in order, and the ring after. -/
def RingBuffer.runOps (id : MemId) (n : Nat) :
    RingBuffer → List RingOp → Except Fault (List (Option Byte) × RingBuffer)
  | rb, [] => .ok ([], rb)
  | rb, .store b :: ops => do
    let rb ← rb.store id n b
    RingBuffer.runOps id n rb ops
  | rb, .take :: ops => do
    let (r, rb) ← rb.take id n
    let (rs, rb) ← RingBuffer.runOps id n rb ops
    .ok (r :: rs, rb)

/-- The same operations on a queue of at most `capacity` bytes that drops the newest byte when it is
full: what a ring is meant to be (R69, R72). -/
def queueOps (capacity : Nat) : List Byte → List RingOp → List (Option Byte) × List Byte
  | q, [] => ([], q)
  | q, .store b :: ops => queueOps capacity (if q.length < capacity then q ++ [b] else q) ops
  | q, .take :: ops =>
    let (rs, q') := queueOps capacity q.tail ops
    (q.head? :: rs, q')

/-! ### Finite runs -/

/-- The instruction that a move's word decodes to, if it is a word and decodes (R99). -/
def Move.instr : Move → Option Instr
  | .word o w =>
    match decode o w with
    | .ok i => some i
    | .error _ => none
  | .poll => none
  | .dispatch _ => none

/-- A finite run: the moves of a list, one after the other (R85). -/
def runMoves : List Move → State → Host.Outcome State Fault Refusal
  | [], s => .next s
  | m :: ms, s =>
    match takeMove m s with
    | .next t => runMoves ms t
    | .fault f => .fault f
    | .refused r => .refused r

/-- The bytes that the steps of a run yield, in order: `f m s t` is what the step by `m` from `s` to `t`
yields. -/
def alongRun (f : Move → State → State → List Byte) : List Move → State → List Byte
  | [], _ => []
  | m :: ms, s =>
    match takeMove m s with
    | .next t => f m s t ++ alongRun f ms t
    | .fault _ => []
    | .refused _ => []

/-- The byte of a `UART_WRITE` that this step completes (R132): at issue, or at a poll. -/
def writtenBy (m : Move) (s _ : State) : List Byte :=
  if s.uart.txb.full s.cfg.nTx then []
  else
    match m.instr, m, s.hstate with
    | some (.uartWrite data), _, _ => if s.uart.begun then [data] else []
    | none, .poll, .wait .uWrite _ (.uartWrite data) => [data]
    | _, _, _ => []

/-- The byte that the receive handler keeps in this step (R156, R160). -/
def keptBy (m : Move) (s _ : State) : List Byte :=
  match m with
  | .dispatch .uartRx => if s.uart.dr && !s.uart.rxb.full s.cfg.nRx then [s.uart.udrRx] else []
  | .dispatch .uartDre | .dispatch .uartCts | .dispatch .twi | .word _ _ | .poll => []

/-- The byte that a `UART_READ` returns in this step, taken from its response (R131). -/
def readBy (m : Move) (s t : State) : List Byte :=
  if m.instr = some .uartRead && !s.uart.rxb.empty then [t.resp.setWidth 8] else []

/-- No move of the list begins or ends the UART channel, which would discard its rings (R160, R161). -/
def KeepsChannel (ms : List Move) : Prop :=
  ∀ m ∈ ms, m.instr ≠ some .uartEnd ∧ ∀ frame baud, m.instr ≠ some (.uartBegin frame baud)

/-- The host is not waiting in a `UART_END` (R128). -/
def State.notEnding (s : State) : Prop := ∀ entryIE cmd, s.hstate ≠ .wait .uEnd entryIE cmd

/-! ### Infinite runs -/

/-- An infinite run: every move is a step of the block (R85, R229). -/
def IsRun (states : Nat → State) (moves : Nat → Move) : Prop :=
  ∀ n, takeMove (moves n) (states n) = .next (states (n + 1))

/-- The Dispatcher is weakly fair: enabled for ever, it moves (R229). -/
def DispatcherFair (states : Nat → State) (moves : Nat → Move) : Prop :=
  ∀ n, (∀ m ≥ n, ∃ src, (states m).dispatchEnabled src = true) → ∃ m ≥ n, ∃ src, moves m = .dispatch src

/-- The Host's poll step is weakly fair (R229). -/
def PollFair (states : Nat → State) (moves : Nat → Move) : Prop :=
  ∀ n, (∀ m ≥ n, (states m).hstate ≠ .idle) → ∃ m ≥ n, moves m = .poll

/-- The run hangs: the host stays in `WAIT` for ever (R123). -/
def Hangs (states : Nat → State) : Prop := ∃ n, ∀ m ≥ n, (states m).hstate ≠ .idle

end Sys2Proof.Machine
end

