-- ==== Sys2Proof/Certificates/Slice0/Obligations.lean ====
section
/-! DEFINITION. The statements for the provers. Each docstring names the rules of the spec it formalises,
or says that it is derived or the model's choice. A result is stated as the next state itself, the old state
with the fields that change: every field that is not written there is unchanged. `DecodesAs` states the
encoding line of a rule. A rule that the spec marks "[derived: ...]" is called spec-derived. -/

open Sys2Proof Sys2Proof.Machine

/-! ### Words (30_encoding.md) -/

/-- Every well-formed instruction decodes from its own word, every operand at every value (R90 to R99). -/
def Obligations.DecodeInvertsEncode : Prop :=
  ∀ i : Instr, i.wellFormed = true → decode i.origin (encode i) = .ok i

/-- A word that decodes is the word of its instruction, and of that instruction's issuer: no bit of a word
is dropped (R90 to R99). -/
def Obligations.EncodeInvertsDecode : Prop :=
  ∀ (o : Origin) (w : Word) (i : Instr), decode o w = .ok i → i.wellFormed = true ∧ i.origin = o ∧ encode i = w

/-- R99 (its last sentence is spec-derived): the decoder answers exactly the row of R94 to R98 that the word
matches, with the fields of R92; and at most one row matches. -/
def Obligations.DecoderFollowsOpcodeTable : Prop :=
  (∀ (o : Origin) (w : Word) (i : Instr),
      decode o w = .ok i ↔ ∃ r ∈ opcodeRows, r.origin = o ∧ w &&& r.mask = r.pattern ∧ r.read w = i) ∧
    ∀ (w : Word), ∀ r ∈ opcodeRows, ∀ r' ∈ opcodeRows,
      w &&& r.mask = r.pattern → w &&& r'.mask = r'.pattern → r.pattern = r'.pattern

/-- The eleven example words of R112, which is spec-derived. -/
def Obligations.ExampleWordsDecode : Prop :=
  decode .host 0x1001C200 = .ok (.uartBegin 0 115200) ∧
  decode .host 0x100E1000 = .ok (.uartBegin 0 921600) ∧
  decode .host 0x1000E100 = .ok (.uartBegin 0 57600) ∧
  decode .host 0x15000041 = .ok (.uartWrite 0x41) ∧
  decode .host 0x20001020 = .ok (.twiBegin 0 1 32) ∧
  decode .host 0x21000050 = .ok (.twiBeginTx 0x50) ∧
  decode .host 0x23000002 = .ok (.twiEndTx 2) ∧
  decode .line 0x83000001 = .ok (.evCts true) ∧
  decode .bus 0x920000AA = .ok (.evTwiRxbyte 0xAA) ∧
  decode .host 0x15000100 = .error .mustBeZero ∧
  decode .host 0x31000000 = .error .reservedUnit

/-- R100: which host words are illegal, and what issuing one does. -/
def Obligations.IllegalHostWordFaults : Prop :=
  (∀ (w : Word) (s : State) (e : DecodeError), decode .host w = .error e → s.hstate = .idle →
      takeWord .host w s =
        .next { s with fault := if s.fault = 0 then 1 else s.fault, resp := 0x80000001 }) ∧
    (∃ e, decode .host 0x00000000 = .error e) ∧
    (∀ w : Word, unitField w ≠ 0x0 → unitField w ≠ 0x1 → unitField w ≠ 0x2 → ∃ e, decode .host w = .error e) ∧
    (∀ w : Word, unitField w = 0x0 → opField w ≠ 0x1 → opField w ≠ 0x2 → ∃ e, decode .host w = .error e) ∧
    (∀ w : Word, unitField w = 0x1 → 0x6 < (opField w).toNat → ∃ e, decode .host w = .error e) ∧
    (∀ w : Word, unitField w = 0x2 → 0xB < (opField w).toNat → ∃ e, decode .host w = .error e) ∧
    (∀ w : Word, unitField w = 0x0 → w.extractLsb' 0 24 ≠ 0 → ∃ e, decode .host w = .error e) ∧
    (∀ w : Word, unitField w = 0x1 → opField w ≠ 0x0 → opField w ≠ 0x5 → w.extractLsb' 0 24 ≠ 0 →
      ∃ e, decode .host w = .error e) ∧
    (∀ w : Word, unitField w = 0x1 → opField w = 0x5 → w.extractLsb' 8 16 ≠ 0 → ∃ e, decode .host w = .error e) ∧
    (∀ w : Word, unitField w = 0x2 → 0x4 < (opField w).toNat → w.extractLsb' 0 24 ≠ 0 →
      ∃ e, decode .host w = .error e) ∧
    (∀ w : Word, unitField w = 0x2 → opField w = 0x1 ∨ opField w = 0x2 → w.extractLsb' 8 16 ≠ 0 →
      ∃ e, decode .host w = .error e) ∧
    (∀ w : Word, unitField w = 0x2 → opField w = 0x3 → w.extractLsb' 12 12 ≠ 0 → ∃ e, decode .host w = .error e) ∧
    (∀ w : Word, unitField w = 0x2 → opField w = 0x4 → w.extractLsb' 8 4 ≠ 0 → ∃ e, decode .host w = .error e)

/-- R102: the Line and the Bus issue only words of their own unit. A word that decodes for one of them is
of its own unit and runs as its stimulus, which never faults; any other is refused. A refusal by name is how the
model refuses a trace that is no run (log 6). -/
def Obligations.ReservedStimulusWordIsRefused : Prop :=
  ∀ (o : Origin) (w : Word) (s : State), o ≠ .host →
    (∀ e, decode o w = .error e → takeWord o w s = .refused .reservedStimulus) ∧
    (∀ i, decode o w = .ok i → i.origin = o ∧ takeWord o w s = exec i s ∧ ∀ f, exec i s ≠ .fault f) ∧
    (o = .line → unitField w ≠ 0x8 → takeWord o w s = .refused .reservedStimulus) ∧
    (o = .bus → unitField w ≠ 0x9 → takeWord o w s = .refused .reservedStimulus)

/-- The codes of R104 to R107. -/
def Obligations.CodeTables : Prop :=
  [Status.ok, .invalidAddress, .invalidSpeed, .bufferAllocationFailure, .invalidCapacity, .invalidCount,
      .writeNotStarted, .sendBufferFull, .unsupportedBaud].map Status.code = [0, 1, 2, 3, 4, 5, 6, 7, 8] ∧
  [TwiResult.none, .success, .nack, .arbLost, .busError].map TwiResult.code = [0, 1, 2, 3, 4] ∧
  [TState.idle, .addressPending, .writingData, .repeatedStart, .readingData, .arbLost, .busError].map TState.code =
    [0, 1, 2, 3, 4, 5, 6] ∧
  [Eng.none, .addrW, .addrR, .dataW, .recv, .stop].map Eng.code = [0, 1, 2, 3, 4, 5] ∧
  [FaultCode.illegalCommand, .notBegun, .twiBusy].map FaultCode.code = [1, 2, 3]

/-! ### Steps (40_sys.md, 60_exceptions.md) -/

/-- A step is the next scheduled move: a word that decodes runs its instruction, on the state that no
longer schedules it. With nothing scheduled the state is kept. The schedule is the model's (log 1,
log 8). -/
def Obligations.StepRunsDecodedInstruction : Prop :=
  (∀ (s : State) (o : Origin) (w : Word) (i : Instr) (rest : List Move),
      s.sched = .word o w :: rest → decode o w = .ok i → i.wellFormed = true →
      step s = exec i { s with sched := rest }) ∧
    (∀ (s : State) (rest : List Move), s.sched = .poll :: rest → step s = pollHost { s with sched := rest }) ∧
    (∀ (s : State) (src : IrqSource) (rest : List Move),
      s.sched = .dispatch src :: rest → step s = dispatch src { s with sched := rest }) ∧
    (∀ s : State, s.sched = [] → step s = .next s) ∧
    (∀ (s : State) (nbits w : Nat) (i : Instr),
      decodeTableWord nbits w = some i → step (s.withFetchWord nbits w) = exec i s)

/-- R117, R124: a waiting host issues no command, whatever the word, and an idle host has no poll step. The
refusals by name are the model's choice (log 6). -/
def Obligations.WaitingHostIssuesNoCommand : Prop :=
  (∀ (w : Word) (s : State), s.hstate ≠ .idle → takeWord .host w s = .refused .hostWaiting) ∧
    (∀ s : State, s.hstate = .idle → pollHost s = .refused .hostNotWaiting)

/-- R115 and R116: the response is 0, `IE` alone changes, pending sources stay pending, and after `SYS_SEI`
the dispatcher may run any of them. -/
def Obligations.SysCommandsSetIE : Prop :=
  DecodesAs .host 0xFFFFFFFF 0x01000000 (fun _ => .sysCli) ∧
  DecodesAs .host 0xFFFFFFFF 0x02000000 (fun _ => .sysSei) ∧
  ∀ s : State, s.hstate = .idle →
    exec .sysCli s = .next { s with ie := false, resp := 0 } ∧
    exec .sysSei s = .next { s with ie := true, resp := 0 } ∧
    ∀ src, State.pending { s with ie := false, resp := 0 } src = s.pending src ∧
      State.dispatchEnabled { s with ie := true, resp := 0 } src = s.pending src

/-- R122, R227: no move changes `IE` but the issue of `SYS_CLI` or of `SYS_SEI`. -/
def Obligations.OnlySysCommandsChangeIE : Prop :=
  ∀ (m : Move) (s t : State), takeMove m s = .next t →
    (m.instr = some .sysCli ∧ t.ie = false) ∨ (m.instr = some .sysSei ∧ t.ie = true) ∨
      (m.instr ≠ some .sysCli ∧ m.instr ≠ some .sysSei ∧ t.ie = s.ie)

/-- R62: no step changes the parameters. -/
def Obligations.NoStepChangesParameters : Prop :=
  ∀ s t : State, step s = .next t → t.cfg = s.cfg

/-- The writers that R30 and R42 give: only `UART_BEGIN` writes the baud and format configuration, and only
`TWI_BEGIN` writes the own address, the speed and the divisor. -/
def Obligations.OnlyBeginWritesConfiguration : Prop :=
  ∀ (m : Move) (s t : State), takeMove m s = .next t →
    ((∃ frame baud, m.instr = some (.uartBegin frame baud)) ∨
      (t.uart.frame = s.uart.frame ∧ t.uart.timing = s.uart.timing ∧ t.uart.u2x = s.uart.u2x)) ∧
    ((∃ own speed cap, m.instr = some (.twiBegin own speed cap)) ∨
      (t.twi.ownAddr = s.twi.ownAddr ∧ t.twi.speed = s.twi.speed ∧ t.twi.div = s.twi.div))

/-! ### UART commands (41_uart.md) -/

/-- R125 and R126: the table and nothing else, and double speed above 57600. -/
def Obligations.BaudResolveIsTheTable : Prop :=
  (∀ (p : Params) (i : Fin canonBauds.length),
      baudResolve p canonBauds[i] false = some p.baudSingle[i] ∧
      baudResolve p canonBauds[i] true = some p.baudDouble[i]) ∧
    (∀ (p : Params) (baud : Nat) (u2x : Bool), baud ∉ canonBauds → baudResolve p baud u2x = none) ∧
    (∀ baud : Nat, doubleSpeed baud = true ↔ 57600 < baud)

/-- R127: a canonical baud configures and enables the channel, any other is refused by status. -/
def Obligations.UartBeginConfigures : Prop :=
  DecodesAs .host 0xFF000000 0x10000000 (fun w => .uartBegin (w.extractLsb' 20 4) (w.extractLsb' 0 20).toNat) ∧
  (∀ (frame : BitVec 4) (i : Fin canonBauds.length) (s : State), s.hstate = .idle →
      exec (.uartBegin frame canonBauds[i]) s =
        .next { s with
          resp := 0
          uart := { s.uart with
            rxb := { s.uart.rxb with head := 0, tail := 0 }
            txb := { s.uart.txb with head := 0, tail := 0 }
            frame := frame
            timing := if 57600 < canonBauds[i] then s.cfg.baudDouble[i] else s.cfg.baudSingle[i]
            u2x := decide (57600 < canonBauds[i])
            rtsDriven := if s.cfg.rtsBound = true then true else s.uart.rtsDriven
            rtsAsserted := if s.cfg.rtsBound = true then false else s.uart.rtsAsserted
            dreie := false, ctsIe := false, ctsEdge := false, transmitting := false
            rxen := true, txen := true, rxcie := true, begun := true } }) ∧
    (∀ (frame : BitVec 4) (baud : Nat) (s : State), s.hstate = .idle → baud ∉ canonBauds →
      exec (.uartBegin frame baud) s = .next { s with resp := 8 })

/-- R128: without interrupts, or with the TX ring empty, the channel closes at once; else the command waits,
and its polls close the channel when the ring is empty. -/
def Obligations.UartEndClosesChannel : Prop :=
  DecodesAs .host 0xFFFFFFFF 0x11000000 (fun _ => .uartEnd) ∧
  ∀ s : State,
    let closed : Uart := { s.uart with
      rxen := false, dr := false, rxSpur := false, txen := false
      rxcie := false, dreie := false, ctsIe := false
      rxb := { s.uart.rxb with tail := s.uart.rxb.head }
      txb := { s.uart.txb with tail := s.uart.txb.head }
      transmitting := false, begun := false }
    (s.hstate = .idle → s.ie = false ∨ s.uart.txb.head = s.uart.txb.tail →
      exec .uartEnd s = .next { s with resp := 0, uart := closed }) ∧
    (s.hstate = .idle → s.ie = true → s.uart.txb.head ≠ s.uart.txb.tail →
      exec .uartEnd s = .next { s with hstate := .wait .uEnd true .uartEnd }) ∧
    (s.hstate = .wait .uEnd true .uartEnd → s.uart.txb.head = s.uart.txb.tail →
      pollHost s = .next { s with hstate := .idle, resp := 0, uart := closed }) ∧
    (s.hstate = .wait .uEnd true .uartEnd → s.uart.txb.head ≠ s.uart.txb.tail → pollHost s = .next s)

/-- R129 (with R66): the response is `(head - tail) mod N_RX`, which is at most `N_RX - 1`. -/
def Obligations.UartAvailableCountsUnread : Prop :=
  DecodesAs .host 0xFFFFFFFF 0x12000000 (fun _ => .uartAvailable) ∧
  ∀ s : State, s.hstate = .idle →
    let n : Int := ((s.uart.rxb.head : Int) - s.uart.rxb.tail) % s.cfg.nRx
    exec .uartAvailable s = .next { s with resp := BitVec.ofInt 32 n } ∧ 0 ≤ n ∧ n ≤ s.cfg.nRx - 1

/-- R130 (with R71): the byte at the tail, or no byte; nothing but the response changes. -/
def Obligations.UartPeekShowsOldest : Prop :=
  DecodesAs .host 0xFFFFFFFF 0x13000000 (fun _ => .uartPeek) ∧
  ∀ s : State, s.hstate = .idle → s.uart.rxb.tail < s.cfg.nRx →
    exec .uartPeek s = .next { s with
      resp := if s.uart.rxb.head = s.uart.rxb.tail then 0xFFFFFFFF
        else (s.uart.rxb.storage.byteAt .rxb 0 s.uart.rxb.tail).setWidth 32 }

/-- R131: an empty ring gives no byte and changes nothing else; else the tail byte is taken, and a bound RTS
is released if fewer than `N_RX - 4` bytes were unread before. -/
def Obligations.UartReadTakesOldest : Prop :=
  DecodesAs .host 0xFFFFFFFF 0x14000000 (fun _ => .uartRead) ∧
  ∀ s : State, s.hstate = .idle → s.uart.rxb.Wf .rxb s.cfg.nRx →
    (s.uart.rxb.head = s.uart.rxb.tail → exec .uartRead s = .next { s with resp := 0xFFFFFFFF }) ∧
    (s.uart.rxb.head ≠ s.uart.rxb.tail →
      exec .uartRead s = .next { s with
        resp := (s.uart.rxb.storage.byteAt .rxb 0 s.uart.rxb.tail).setWidth 32
        uart := { s.uart with
          rxb := { s.uart.rxb with tail := (s.uart.rxb.tail + 1) % s.cfg.nRx }
          rtsAsserted :=
            if s.cfg.rtsBound = true ∧ (s.uart.rxb.contents .rxb s.cfg.nRx).length + 3 < s.cfg.nRx - 1 then false
            else s.uart.rtsAsserted } })

/-- R132: the fault before `UART_BEGIN`; the store, at issue or at a poll; and the wait while the ring is
full, which sets `DREIE` with interrupts on, and without them runs the body of `ISR_UART_DRE` if `DRE = 1`. -/
def Obligations.UartWriteStoresOrWaits : Prop :=
  DecodesAs .host 0xFFFFFF00 0x15000000 (fun w => .uartWrite (w.extractLsb' 0 8)) ∧
  ∀ (data : Byte) (s : State),
    let room : Prop := (s.uart.txb.head + 1) % s.cfg.nTx ≠ s.uart.txb.tail
    let stored (st : Memory) : State := { s with
      hstate := .idle, resp := 1
      uart := { s.uart with
        txb := { s.uart.txb with storage := st, head := (s.uart.txb.head + 1) % s.cfg.nTx }
        transmitting := true, rxcie := true, dreie := true, txc := false } }
    let holds (st : Memory) : Prop := st.wf .txb s.cfg.nTx = true ∧
      ∀ a, st.byteAt .txb 0 a = if a = s.uart.txb.head then data else s.uart.txb.storage.byteAt .txb 0 a
    (s.hstate = .idle → s.uart.begun = false →
      exec (.uartWrite data) s =
        .next { s with fault := if s.fault = 0 then 2 else s.fault, resp := 0x80000002 }) ∧
    (s.hstate = .idle → s.uart.begun = true → s.uart.txb.Wf .txb s.cfg.nTx → room →
      ∃ st, exec (.uartWrite data) s = .next (stored st) ∧ holds st) ∧
    (s.hstate = .idle → s.uart.begun = true → ¬ room → s.ie = true →
      exec (.uartWrite data) s = .next { s with
        hstate := .wait .uWrite true (.uartWrite data), uart := { s.uart with dreie := true } }) ∧
    (s.hstate = .idle → s.uart.begun = true → ¬ room → s.ie = false → s.uart.txhold ≠ none →
      exec (.uartWrite data) s = .next { s with hstate := .wait .uWrite false (.uartWrite data) }) ∧
    (s.hstate = .idle → s.uart.begun = true → ¬ room → s.ie = false → s.uart.txhold = none →
      ∀ u, isrUartDre s.cfg s.uart = .ok u →
        exec (.uartWrite data) s = .next { s with hstate := .wait .uWrite false (.uartWrite data), uart := u }) ∧
    ∀ e, s.hstate = .wait .uWrite e (.uartWrite data) →
      (s.uart.txb.Wf .txb s.cfg.nTx → room → ∃ st, pollHost s = .next (stored st) ∧ holds st) ∧
      (¬ room → e = true → pollHost s = .next { s with uart := { s.uart with dreie := true } }) ∧
      (¬ room → e = false → s.uart.txhold ≠ none → pollHost s = .next s) ∧
      (¬ room → e = false → s.uart.txhold = none →
        ∀ u, isrUartDre s.cfg s.uart = .ok u → pollHost s = .next { s with uart := u })

/-- The source's testable property of R132: a write to a full ring with interrupts off, the holding register
empty and CTS permitting, completes by the next poll. The oldest byte has gone to the hardware and the new one
stands last in the ring. -/
def Obligations.WriteCompletesWithInterruptsOff : Prop :=
  ∀ (data : Byte) (s : State), s.hstate = .idle → s.ie = false → s.uart.begun = true → s.uart.txen = true →
    s.uart.txb.Wf .txb s.cfg.nTx → s.uart.txb.full s.cfg.nTx = true → s.uart.txhold = none →
    (s.cfg.ctsBound = false ∨ s.uart.ctsIn = false) →
    ∃ t t', exec (.uartWrite data) s = .next t ∧ t.hstate = .wait .uWrite false (.uartWrite data) ∧
      pollHost t = .next t' ∧ t'.hstate = .idle ∧ t'.resp = 1 ∧ t'.ie = false ∧
      t'.uart.txb.contents .txb t'.cfg.nTx = (s.uart.txb.contents .txb s.cfg.nTx).tail ++ [data] ∧
      t'.uart.txshift.toList ++ t'.uart.txhold.toList =
        s.uart.txshift.toList ++ (s.uart.txb.contents .txb s.cfg.nTx).head?.toList ∧
      t'.uart.uartOut = s.uart.uartOut

/-- R133: completion when nothing is outstanding or transmission is complete, at issue or at a poll; else the
wait, which without interrupts runs the body of `ISR_UART_DRE` if `DRE = 1`. -/
def Obligations.UartFlushWaitsForTransmission : Prop :=
  DecodesAs .host 0xFFFFFFFF 0x16000000 (fun _ => .uartFlush) ∧
  ∀ s : State,
    let done : Prop := ¬ (s.uart.transmitting = true ∧ s.uart.txc = false)
    let flushed : State := { s with
      hstate := .idle, resp := 0, uart := { s.uart with transmitting := false } }
    (s.hstate = .idle → done → exec .uartFlush s = .next flushed) ∧
    (s.hstate = .idle → ¬ done → s.ie = true ∨ s.uart.txhold ≠ none →
      exec .uartFlush s = .next { s with hstate := .wait .uFlush s.ie .uartFlush }) ∧
    (s.hstate = .idle → ¬ done → s.ie = false → s.uart.txhold = none →
      ∀ u, isrUartDre s.cfg s.uart = .ok u →
        exec .uartFlush s = .next { s with hstate := .wait .uFlush false .uartFlush, uart := u }) ∧
    ∀ e, s.hstate = .wait .uFlush e .uartFlush →
      (done → pollHost s = .next flushed) ∧
      (¬ done → e = true ∨ s.uart.txhold ≠ none → pollHost s = .next s) ∧
      (¬ done → e = false → s.uart.txhold = none →
        ∀ u, isrUartDre s.cfg s.uart = .ok u → pollHost s = .next { s with uart := u })

/-! ### Dispatch and the UART handlers (60_exceptions.md, 42_uart_events.md) -/

/-- R225 and R228: when each source is pending; a dispatcher step needs `IE = 1` and a pending source, any of
them; and it runs that source's handler. The refusal is the model's (log 6). -/
def Obligations.DispatchNeedsIEAndPending : Prop :=
  ∀ s : State,
    s.pending .uartRx = (s.uart.rxcie && (s.uart.dr || s.uart.rxSpur)) ∧
    s.pending .uartDre = (s.uart.dreie && s.uart.txhold.isNone) ∧
    s.pending .uartCts = (s.uart.ctsIe && s.uart.ctsEdge) ∧
    s.pending .twi = (s.twi.irqen && (s.twi.wif || s.twi.rif || s.twi.arbf || s.twi.berf)) ∧
    ∀ src, (s.ie = true → s.pending src = true → dispatch src s = toOutcome (runHandler src s)) ∧
      (s.ie = false ∨ s.pending src = false → dispatch src s = .refused .dispatchNotEnabled)

/-- R231: a handler run leaves the host's state and `IE` as they are, a UART handler leaves the controller,
and the TWI handler leaves the channel. -/
def Obligations.HandlerRunKeepsHostState : Prop :=
  ∀ (src : IrqSource) (s t : State), dispatch src s = .next t →
    t = { s with uart := t.uart, twi := t.twi } ∧
    (src = .twi → t.uart = s.uart ∧ t.twi.begun = s.twi.begun ∧ t.twi.sla = s.twi.sla ∧ t.twi.cap = s.twi.cap) ∧
    (src ≠ .twi → t.twi = s.twi ∧ t.uart.begun = s.uart.begun ∧ t.uart.ctsIn = s.uart.ctsIn ∧
      t.uart.uartOut = s.uart.uartOut ∧ t.uart.uartIn = s.uart.uartIn)

/-- R156: RTS is tested before the store, the data register is read, the spurious request cleared, and a valid
byte stored unless the ring is full. -/
def Obligations.ReceiveHandlerStoresByte : Prop :=
  ∀ s : State, s.ie = true → s.uart.rxcie = true → (s.uart.dr = true ∨ s.uart.rxSpur = true) →
    s.uart.rxb.Wf .rxb s.cfg.nRx →
    let old := s.uart.rxb.contents .rxb s.cfg.nRx
    let kept : Prop := s.uart.dr = true ∧ old.length < s.cfg.nRx - 1
    ∃ rb, dispatch .uartRx s = .next { s with
        uart := { s.uart with
          rtsAsserted := if s.cfg.rtsBound = true ∧ s.cfg.nRx - 1 ≤ old.length + 3 then true else s.uart.rtsAsserted
          dr := false, rxSpur := false, rxb := rb } } ∧
      (¬ kept → rb = s.uart.rxb) ∧
      (kept → rb.tail = s.uart.rxb.tail ∧ rb.head = (s.uart.rxb.head + 1) % s.cfg.nRx ∧
        rb.contents .rxb s.cfg.nRx = old ++ [s.uart.udrRx] ∧
        ∀ a, rb.storage.byteAt .rxb 0 a =
          if a = s.uart.rxb.head then s.uart.udrRx else s.uart.rxb.storage.byteAt .rxb 0 a)

/-- R157 (with R154): a CTS stop or an empty ring ends the transmit interrupt, and a CTS stop arms the edge
interrupt where the pin has one; else one byte goes to the hardware. -/
def Obligations.TransmitHandlerMovesByte : Prop :=
  ∀ s : State, s.ie = true → s.uart.dreie = true → s.uart.txhold = none →
    let stop : Prop := s.cfg.ctsBound = true ∧ s.uart.ctsIn = true
    let b := s.uart.txb.storage.byteAt .txb 0 s.uart.txb.tail
    let txb := { s.uart.txb with tail := (s.uart.txb.tail + 1) % s.cfg.nTx }
    (stop → s.cfg.ctsEdgeIrq = true →
      dispatch .uartDre s =
        .next { s with uart := { s.uart with dreie := false, ctsEdge := false, ctsIe := true } }) ∧
    (stop → s.cfg.ctsEdgeIrq = false →
      dispatch .uartDre s = .next { s with uart := { s.uart with dreie := false } }) ∧
    (¬ stop → s.uart.txb.head = s.uart.txb.tail →
      dispatch .uartDre s = .next { s with uart := { s.uart with dreie := false } }) ∧
    (¬ stop → s.uart.txb.head ≠ s.uart.txb.tail → s.uart.txb.tail < s.cfg.nTx →
      (s.uart.txen = true → s.uart.txshift = none →
        dispatch .uartDre s = .next { s with uart := { s.uart with txb := txb, txshift := some b } }) ∧
      (s.uart.txen = true → s.uart.txshift ≠ none →
        dispatch .uartDre s = .next { s with uart := { s.uart with txb := txb, txhold := some b } }) ∧
      (s.uart.txen = false → dispatch .uartDre s = .next { s with uart := { s.uart with txb := txb } }))

/-- R158: the callback decides by the level of CTS. -/
def Obligations.CtsHandlerResumesOrDisarms : Prop :=
  ∀ s : State, s.ie = true → s.uart.ctsIe = true → s.uart.ctsEdge = true →
    (s.uart.ctsIn = false → s.uart.txb.head ≠ s.uart.txb.tail →
      dispatch .uartCts s = .next { s with uart := { s.uart with ctsEdge := false, dreie := true } }) ∧
    (s.uart.ctsIn = false → s.uart.txb.head = s.uart.txb.tail →
      dispatch .uartCts s = .next { s with uart := { s.uart with ctsEdge := false } }) ∧
    (s.uart.ctsIn = true →
      dispatch .uartCts s = .next { s with uart := { s.uart with ctsEdge := false, ctsIe := false } })

/-- R150: always enabled, whatever the host does; the byte is logged, and kept only by an enabled receiver
whose data register is free. -/
def Obligations.ByteArrivalIsKeptOrLost : Prop :=
  DecodesAs .line 0xFFFFFF00 0x80000000 (fun w => .evRxByte (w.extractLsb' 0 8)) ∧
  ∀ (data : Byte) (s : State),
    (s.uart.rxen = true → s.uart.dr = false →
      exec (.evRxByte data) s =
        .next { s with uart := { s.uart with uartIn := s.uart.uartIn ++ [data], udrRx := data, dr := true } }) ∧
    (s.uart.rxen = false ∨ s.uart.dr = true →
      exec (.evRxByte data) s = .next { s with uart := { s.uart with uartIn := s.uart.uartIn ++ [data] } })

/-- R151 to R153: when each other Line stimulus is enabled, and what it does. The refusal of one that is not
is the model's form of R102 (log 6). -/
def Obligations.LineStimuliWhenEnabled : Prop :=
  DecodesAs .line 0xFFFFFFFF 0x81000000 (fun _ => .evRxSpurious) ∧
  DecodesAs .line 0xFFFFFFFF 0x82000000 (fun _ => .evTxShiftDone) ∧
  DecodesAs .line 0xFFFFFFFE 0x83000000 (fun w => .evCts (w.getLsbD 0)) ∧
  ∀ s : State,
    (s.uart.rxen = true → exec .evRxSpurious s = .next { s with uart := { s.uart with rxSpur := true } }) ∧
    (s.uart.rxen = false → exec .evRxSpurious s = .refused .stimulusNotEnabled) ∧
    (∀ b, s.uart.txshift = some b →
      exec .evTxShiftDone s = .next { s with uart := { s.uart with
        uartOut := s.uart.uartOut ++ [b], txshift := s.uart.txhold, txhold := none
        txc := if s.uart.txhold = none then true else s.uart.txc } }) ∧
    (s.uart.txshift = none → exec .evTxShiftDone s = .refused .stimulusNotEnabled) ∧
    (∀ level, s.cfg.ctsBound = true → level ≠ s.uart.ctsIn →
      exec (.evCts level) s = .next { s with uart := { s.uart with ctsIn := level, ctsEdge := true } }) ∧
    (∀ level, s.cfg.ctsBound = false ∨ level = s.uart.ctsIn →
      exec (.evCts level) s = .refused .stimulusNotEnabled)

/-! ### TWI commands (43_twi.md) -/

/-- R221 and R222: the eight commands that need their device begun raise `NOT_BEGUN`, and only that, before
any other check; a raised fault keeps the first code and answers its own. -/
def Obligations.CommandBeforeBeginFaults : Prop :=
  ∀ s : State, s.hstate = .idle →
    let faulted : State := { s with fault := if s.fault = 0 then 2 else s.fault, resp := 0x80000002 }
    (s.uart.begun = false → ∀ data, exec (.uartWrite data) s = .next faulted) ∧
    (s.twi.begun = false →
      (∀ addr, exec (.twiBeginTx addr) s = .next faulted) ∧
      (∀ data, exec (.twiWrite data) s = .next faulted) ∧
      (∀ count, exec (.twiEndTx count) s = .next faulted) ∧
      (∀ addr count, exec (.twiRequest addr count) s = .next faulted) ∧
      exec .twiAvailable s = .next faulted ∧ exec .twiRead s = .next faulted ∧ exec .twiPeek s = .next faulted)

/-- R170: the checks in their order, each with no other effect, and what a successful begin leaves. The new
memories' bytes are free values, and nothing is said of them (log 4). -/
def Obligations.TwiBeginChecksThenConfigures : Prop :=
  DecodesAs .host 0xFF000000 0x20000000 (fun w => .twiBegin (w.extractLsb' 16 8) (w.extractLsb' 12 4) (w.extractLsb' 0 12).toNat) ∧
  ∀ (own : Byte) (speed : BitVec 4) (cap : Nat) (s : State), s.hstate = .idle →
    (s.twi.begun = true → s.twi.busIdle = false →
      exec (.twiBegin own speed cap) s =
        .next { s with fault := if s.fault = 0 then 3 else s.fault, resp := 0x80000003 }) ∧
    (s.twi.begun = false ∨ s.twi.busIdle = true →
      (speed ≠ 0 → speed ≠ 1 → exec (.twiBegin own speed cap) s = .next { s with resp := 2 }) ∧
      (speed = 0 ∨ speed = 1 → cap = 0 → exec (.twiBegin own speed cap) s = .next { s with resp := 4 }) ∧
      (speed = 0 ∨ speed = 1 → cap > s.cfg.twiBufMax →
        exec (.twiBegin own speed cap) s = .next { s with resp := 3 }) ∧
      (speed = 0 ∨ speed = 1 → 0 < cap → cap ≤ s.cfg.twiBufMax →
        ∃ sb rb n, exec (.twiBegin own speed cap) s = .next { s with
            resp := 0
            twi := { s.twi with
              cap := cap, sendbuf := sb, recvbuf := rb, allocs := n
              ownAddr := own, speed := speed
              div := if speed = 0 then s.cfg.twiDivisor0 else s.cfg.twiDivisor1
              irqen := true, wif := false, rif := false, nackf := false, arbf := false, berf := false
              eng := .none, srs := 0, txActive := false, werr := 0, tresult := 0, tstate := .idle
              busIdle := true, begun := true } } ∧
          (sb.pos = 0 ∧ sb.lim = cap ∧ sb.mode = .fill ∧ sb.data.wf .sendbuf cap = true) ∧
          (rb.pos = 0 ∧ rb.lim = cap ∧ rb.mode = .fill ∧ rb.data.wf .recvbuf cap = true)))

/-- R171, once the bus is idle: a valid address starts composing, at issue or at a poll; any other is refused
by status and changes nothing. The fault and the wait are in other statements. -/
def Obligations.TwiBeginTxStartsComposing : Prop :=
  ∀ (addr : Byte) (s : State), s.twi.busIdle = true →
    let composing : State := { s with
      hstate := .idle, resp := 0
      twi := { s.twi with
        sla := addr <<< 1, sendbuf := { s.twi.sendbuf with pos := 0, lim := s.twi.cap, mode := .fill }
        txActive := true, werr := 0 } }
    let refused : State := { s with hstate := .idle, resp := 1 }
    (s.hstate = .idle → s.twi.begun = true → addr ≤ 0x7F → exec (.twiBeginTx addr) s = .next composing) ∧
    (s.hstate = .idle → s.twi.begun = true → 0x7F < addr → exec (.twiBeginTx addr) s = .next refused) ∧
    ∀ e, s.hstate = .wait .tBeginTx e (.twiBeginTx addr) →
      (addr ≤ 0x7F → pollHost s = .next composing) ∧ (0x7F < addr → pollHost s = .next refused)

/-- R172: the byte is put at `pos`, or the write error is recorded and the response is 0. -/
def Obligations.TwiWriteAppendsOrRecordsError : Prop :=
  DecodesAs .host 0xFFFFFF00 0x22000000 (fun w => .twiWrite (w.extractLsb' 0 8)) ∧
  ∀ (data : Byte) (s : State), s.hstate = .idle →
    let sb := s.twi.sendbuf
    (s.twi.begun = false →
      exec (.twiWrite data) s = .next { s with fault := if s.fault = 0 then 2 else s.fault, resp := 0x80000002 }) ∧
    (s.twi.begun = true → s.twi.txActive = false →
      exec (.twiWrite data) s = .next { s with resp := 0, twi := { s.twi with werr := 6 } }) ∧
    (s.twi.begun = true → s.twi.txActive = true → sb.Wf .sendbuf s.twi.cap → sb.mode = .fill → sb.pos < sb.lim →
      ∃ d, exec (.twiWrite data) s = .next { s with
          resp := 1, twi := { s.twi with sendbuf := { sb with data := d, pos := sb.pos + 1 } } } ∧
        d.wf .sendbuf s.twi.cap = true ∧
        ∀ a, d.byteAt .sendbuf sb.draw a = if a = sb.pos then data else sb.data.byteAt .sendbuf sb.draw a) ∧
    (s.twi.begun = true → s.twi.txActive = true → sb.mode = .drain ∨ sb.lim ≤ sb.pos →
      exec (.twiWrite data) s = .next { s with resp := 0, twi := { s.twi with werr := 7 } })

/-- R173: the checks in their order, and the start of the composed write. -/
def Obligations.TwiEndTxStartsTransaction : Prop :=
  DecodesAs .host 0xFFFFF000 0x23000000 (fun w => .twiEndTx (w.extractLsb' 0 12).toNat) ∧
  ∀ (count : Nat) (s : State), s.hstate = .idle →
    (s.twi.begun = false →
      exec (.twiEndTx count) s = .next { s with fault := if s.fault = 0 then 2 else s.fault, resp := 0x80000002 }) ∧
    (s.twi.begun = true → s.twi.txActive = false → exec (.twiEndTx count) s = .next { s with resp := 6 }) ∧
    (s.twi.begun = true → s.twi.txActive = true → count > s.twi.cap →
      exec (.twiEndTx count) s = .next { s with resp := 5 }) ∧
    (s.twi.begun = true → s.twi.txActive = true → count ≤ s.twi.cap → s.twi.busIdle = false →
      exec (.twiEndTx count) s = .next { s with fault := if s.fault = 0 then 3 else s.fault, resp := 0x80000003 }) ∧
    (s.twi.begun = true → s.twi.txActive = true → count ≤ s.twi.cap → s.twi.busIdle = true →
      exec (.twiEndTx count) s = .next { s with
        resp := 0
        twi := { s.twi with
          sendbuf := if s.twi.sendbuf.mode = .fill then
              { s.twi.sendbuf with lim := s.twi.sendbuf.pos, pos := 0, mode := .drain }
            else s.twi.sendbuf
          recvbuf := { s.twi.recvbuf with pos := 0, lim := s.twi.cap, mode := .fill }
          srs := count, txActive := false, tstate := .addressPending
          twiOut := s.twi.twiOut ++ [.start s.twi.sla]
          eng := if s.twi.sla.getLsbD 0 = true then .addrR else .addrW
          busIdle := false, wif := false, rif := false } })

/-- R174, once the bus is idle: the address is checked before the count, at issue or at a poll, and a legal
request starts the read. The fault and the wait are in other statements. -/
def Obligations.TwiRequestStartsRead : Prop :=
  ∀ (addr : Byte) (count : Nat) (s : State), s.twi.busIdle = true →
    let started : State := { s with
      hstate := .idle, resp := 0
      twi := { s.twi with
        sendbuf := { s.twi.sendbuf with pos := 0, lim := s.twi.cap, mode := .fill }
        recvbuf := { s.twi.recvbuf with pos := 0, lim := s.twi.cap, mode := .fill }
        srs := count, sla := (addr <<< 1) ||| 1, txActive := false, tstate := .addressPending
        twiOut := s.twi.twiOut ++ [.start ((addr <<< 1) ||| 1)]
        eng := .addrR, busIdle := false, wif := false, rif := false } }
    let answers (out : Host.Outcome State Machine.Fault Refusal) : Prop :=
      (0x7F < addr → out = .next { s with hstate := .idle, resp := 1 }) ∧
      (addr ≤ 0x7F → count = 0 ∨ s.twi.cap < count → out = .next { s with hstate := .idle, resp := 5 }) ∧
      (addr ≤ 0x7F → 0 < count → count ≤ s.twi.cap → out = .next started)
    (s.hstate = .idle → s.twi.begun = true → answers (exec (.twiRequest addr count) s)) ∧
    ∀ e, s.hstate = .wait .tRequest e (.twiRequest addr count) → answers (pollHost s)

/-- R175, once `SRS = 0`: the number of bytes still to read, at issue or at a poll. The fault and the wait are
in other statements. -/
def Obligations.TwiAvailableCountsReadable : Prop :=
  ∀ s : State, s.twi.srs = 0 →
    let counted : State := { s with
      hstate := .idle
      resp := BitVec.ofNat 32 (if s.twi.recvbuf.mode = .drain then s.twi.recvbuf.lim - s.twi.recvbuf.pos else 0) }
    (s.hstate = .idle → s.twi.begun = true → exec .twiAvailable s = .next counted) ∧
    ∀ e, s.hstate = .wait .tAvailable e .twiAvailable → pollHost s = .next counted

/-- R119, R120: while its condition fails, a TWI wait does nothing with interrupts on or with no flag set,
and without interrupts runs the body of `ISR_TWI` if a flag is set, whatever `T_IRQEN`; at issue and at each
poll. -/
def Obligations.TwiWaitsReplayHandler : Prop :=
  ∀ (kind : WaitKind) (cmd : Instr) (s : State),
    (∃ addr, kind = .tBeginTx ∧ cmd = .twiBeginTx addr ∧ s.twi.busIdle = false) ∨
      (∃ addr count, kind = .tRequest ∧ cmd = .twiRequest addr count ∧ s.twi.busIdle = false) ∨
      (kind = .tAvailable ∧ cmd = .twiAvailable ∧ s.twi.srs ≠ 0) →
    let flag := s.twi.wif || s.twi.rif || s.twi.arbf || s.twi.berf
    (s.hstate = .idle → s.twi.begun = true →
      (s.ie = true ∨ flag = false → exec cmd s = .next { s with hstate := .wait kind s.ie cmd }) ∧
      (s.ie = false → flag = true → ∀ t, isrTwi s.twi = .ok t →
        exec cmd s = .next { s with hstate := .wait kind false cmd, twi := t })) ∧
    ∀ e, s.hstate = .wait kind e cmd →
      (e = true ∨ flag = false → pollHost s = .next s) ∧
      (e = false → flag = true → ∀ t, isrTwi s.twi = .ok t → pollHost s = .next { s with twi := t })

/-- R176 and R177: the byte at `pos` of a draining buffer, or no byte; `TWI_READ` moves `pos`, `TWI_PEEK` does
not. -/
def Obligations.TwiReadAndPeekGiveNextByte : Prop :=
  DecodesAs .host 0xFFFFFFFF 0x26000000 (fun _ => .twiRead) ∧
  DecodesAs .host 0xFFFFFFFF 0x27000000 (fun _ => .twiPeek) ∧
  ∀ s : State, s.hstate = .idle →
    let rb := s.twi.recvbuf
    let b := rb.data.byteAt .recvbuf rb.draw rb.pos
    let faulted : State := { s with fault := if s.fault = 0 then 2 else s.fault, resp := 0x80000002 }
    (s.twi.begun = false → exec .twiRead s = .next faulted ∧ exec .twiPeek s = .next faulted) ∧
    (s.twi.begun = true → rb.lim ≤ s.twi.cap → rb.mode = .drain → rb.pos < rb.lim →
      exec .twiRead s = .next { s with
        resp := b.setWidth 32, twi := { s.twi with recvbuf := { rb with pos := rb.pos + 1 } } } ∧
      exec .twiPeek s = .next { s with resp := b.setWidth 32 }) ∧
    (s.twi.begun = true → rb.mode = .fill ∨ rb.lim ≤ rb.pos →
      exec .twiRead s = .next { s with resp := 0xFFFFFFFF } ∧
      exec .twiPeek s = .next { s with resp := 0xFFFFFFFF })

/-- R178 to R181: four commands that only answer, begun or not. -/
def Obligations.TwiQueriesOnlyAnswer : Prop :=
  DecodesAs .host 0xFFFFFFFF 0x28000000 (fun _ => .twiFlush) ∧
  DecodesAs .host 0xFFFFFFFF 0x29000000 (fun _ => .twiReady) ∧
  DecodesAs .host 0xFFFFFFFF 0x2A000000 (fun _ => .twiResult) ∧
  DecodesAs .host 0xFFFFFFFF 0x2B000000 (fun _ => .twiWrerr) ∧
  ∀ s : State, s.hstate = .idle →
    exec .twiFlush s = .next { s with resp := 0 } ∧
    exec .twiReady s = .next { s with resp := if s.twi.busIdle = true then 1 else 0 } ∧
    exec .twiResult s = .next { s with resp := s.twi.tresult.setWidth 32 } ∧
    exec .twiWrerr s = .next { s with resp := s.twi.werr.setWidth 32 }

/-! ### TWI events and the handler (44_twi_events.md) -/

/-- R196 to R201: when each Bus stimulus is enabled, and what it does. The refusal of one that is not is the
model's form of R102 (log 6). -/
def Obligations.BusStimuliWhenEnabled : Prop :=
  DecodesAs .bus 0xFFFFFFFF 0x90000000 (fun _ => .evTwiAck) ∧
  DecodesAs .bus 0xFFFFFFFF 0x91000000 (fun _ => .evTwiNack) ∧
  DecodesAs .bus 0xFFFFFF00 0x92000000 (fun w => .evTwiRxbyte (w.extractLsb' 0 8)) ∧
  DecodesAs .bus 0xFFFFFFFF 0x93000000 (fun _ => .evTwiArblost) ∧
  DecodesAs .bus 0xFFFFFFFF 0x94000000 (fun _ => .evTwiBuserr) ∧
  DecodesAs .bus 0xFFFFFFFF 0x95000000 (fun _ => .evTwiBusIdle) ∧
  ∀ s : State,
    let t := s.twi
    let transfer : Prop := t.eng = .addrW ∨ t.eng = .addrR ∨ t.eng = .dataW ∨ t.eng = .recv
    let released : Prop := t.begun = true ∧ t.busIdle = false ∧
      (t.eng = .stop ∨ t.eng = .none ∧ (t.tstate = .arbLost ∨ t.tstate = .busError) ∧
        t.wif = false ∧ t.rif = false ∧ t.arbf = false ∧ t.berf = false)
    (t.eng = .addrW ∨ t.eng = .dataW →
      exec .evTwiAck s = .next { s with twi := { t with eng := .none, nackf := false, wif := true } }) ∧
    (¬ (t.eng = .addrW ∨ t.eng = .dataW) → exec .evTwiAck s = .refused .stimulusNotEnabled) ∧
    (t.eng = .addrW ∨ t.eng = .addrR ∨ t.eng = .dataW →
      exec .evTwiNack s = .next { s with twi := { t with eng := .none, nackf := true, wif := true } }) ∧
    (¬ (t.eng = .addrW ∨ t.eng = .addrR ∨ t.eng = .dataW) → exec .evTwiNack s = .refused .stimulusNotEnabled) ∧
    (∀ data, t.eng = .addrR ∨ t.eng = .recv →
      exec (.evTwiRxbyte data) s =
        .next { s with twi := { t with eng := .none, dataIn := data, nackf := false, rif := true } }) ∧
    (∀ data, ¬ (t.eng = .addrR ∨ t.eng = .recv) →
      exec (.evTwiRxbyte data) s = .refused .stimulusNotEnabled) ∧
    (transfer → exec .evTwiArblost s = .next { s with twi := { t with eng := .none, arbf := true } }) ∧
    (¬ transfer → exec .evTwiArblost s = .refused .stimulusNotEnabled) ∧
    (transfer → exec .evTwiBuserr s = .next { s with twi := { t with eng := .none, berf := true } }) ∧
    (¬ transfer → exec .evTwiBuserr s = .refused .stimulusNotEnabled) ∧
    (released → exec .evTwiBusIdle s = .next { s with twi := { t with eng := .none, busIdle := true } }) ∧
    (¬ released → exec .evTwiBusIdle s = .refused .stimulusNotEnabled)

/-- R203 and R204, in the order of R202: arbitration loss before a bus error, and both before a transfer. -/
def Obligations.TwiErrorBranchesRecord : Prop :=
  ∀ s : State, s.ie = true → s.twi.irqen = true →
    (s.twi.arbf = true →
      dispatch .twi s = .next { s with twi := { s.twi with
        arbf := false, wif := false, rif := false, tresult := 3, tstate := .arbLost } }) ∧
    (s.twi.arbf = false → s.twi.berf = true →
      dispatch .twi s = .next { s with twi := { s.twi with
        berf := false, wif := false, rif := false, tresult := 4, tstate := .busError } })

/-- R205, in the order of R202: a NACK stops the bus; else the next byte is sent; else a read follows by a
repeated start; else the bus is stopped with success. -/
def Obligations.TwiWriteBranchSendsNext : Prop :=
  ∀ s : State, s.ie = true → s.twi.irqen = true → s.twi.arbf = false → s.twi.berf = false → s.twi.wif = true →
    let t := s.twi
    let sb := t.sendbuf
    let more : Prop := sb.mode = .drain ∧ sb.pos < sb.lim
    (t.nackf = true → dispatch .twi s = .next { s with twi := { t with
      twiOut := t.twiOut ++ [.stop], eng := .stop, wif := false, rif := false, tresult := 2, tstate := .idle } }) ∧
    (t.nackf = false → more → sb.lim ≤ t.cap → dispatch .twi s = .next { s with twi := { t with
      sendbuf := { sb with pos := sb.pos + 1 }
      twiOut := t.twiOut ++ [.data (sb.data.byteAt .sendbuf sb.draw sb.pos)]
      eng := .dataW, wif := false, rif := false, tstate := .writingData } }) ∧
    (t.nackf = false → ¬ more → 0 < t.srs → dispatch .twi s = .next { s with twi := { t with
      twiOut := t.twiOut ++ [.rstart (t.sla ||| 1)], eng := .addrR, busIdle := false
      wif := false, rif := false, tstate := .repeatedStart } }) ∧
    (t.nackf = false → ¬ more → t.srs = 0 → dispatch .twi s = .next { s with twi := { t with
      twiOut := t.twiOut ++ [.stop], eng := .stop, wif := false, rif := false, tresult := 1, tstate := .idle } })

/-- R206, in the order of R202: an expected byte is put at `pos` and counted down; then the next is asked for,
or the transfer ends and the buffer is flipped to readable. -/
def Obligations.TwiReadBranchKeepsByte : Prop :=
  ∀ s : State, s.ie = true → s.twi.irqen = true → s.twi.arbf = false → s.twi.berf = false →
    s.twi.wif = false → s.twi.rif = true →
    let t := s.twi
    let rb := t.recvbuf
    let puts (d : Memory) : Prop := d.wf .recvbuf t.cap = true ∧
      ∀ a, d.byteAt .recvbuf rb.draw a = if a = rb.pos then t.dataIn else rb.data.byteAt .recvbuf rb.draw a
    (rb.Wf .recvbuf t.cap → rb.mode = .fill → rb.pos < rb.lim → 1 < t.srs →
      ∃ d, dispatch .twi s = .next { s with twi := { t with
          recvbuf := { rb with data := d, pos := rb.pos + 1 }, srs := t.srs - 1
          twiOut := t.twiOut ++ [.ack], eng := .recv, wif := false, rif := false, tstate := .readingData } } ∧
        puts d) ∧
    (rb.Wf .recvbuf t.cap → rb.mode = .fill → rb.pos < rb.lim → t.srs = 1 →
      ∃ d, dispatch .twi s = .next { s with twi := { t with
          recvbuf := { rb with data := d, pos := 0, lim := rb.pos + 1, mode := .drain }, srs := 0
          twiOut := t.twiOut ++ [.nackStop], eng := .stop, wif := false, rif := false
          tresult := 1, tstate := .idle } } ∧
        puts d) ∧
    (rb.mode = .fill → t.srs = 0 →
      dispatch .twi s = .next { s with twi := { t with
        recvbuf := { rb with pos := 0, lim := rb.pos, mode := .drain }
        twiOut := t.twiOut ++ [.nackStop], eng := .stop, wif := false, rif := false
        tresult := 1, tstate := .idle } })

/-- R207, which is spec-derived: in a state that meets the invariant, every handler run is one of the
table's rows, and a transaction starts only from `IDLE`, `ARB_LOST` or `BUS_ERROR`. -/
def Obligations.TransactionStateMachine : Prop :=
  (∀ (s : State) (n : Twi), s.Inv → s.twi.anyFlag = true → isrTwi s.twi = .ok n →
    let o := s.twi
    let writing : Prop := o.tstate = .addressPending ∨ o.tstate = .writingData
    let reading : Prop := o.tstate = .addressPending ∨ o.tstate = .repeatedStart ∨ o.tstate = .readingData
    let inFlight : Prop := writing ∨ reading
    (o.wif = true ∧ o.nackf = true ∧ (writing ∨ o.tstate = .repeatedStart) ∧
        n.tstate = .idle ∧ n.twiOut = o.twiOut ++ [.stop] ∧ n.tresult = 2) ∨
    (o.wif = true ∧ o.nackf = false ∧ writing ∧ 0 < o.sendbuf.remaining ∧
        n.tstate = .writingData ∧ (∃ b, n.twiOut = o.twiOut ++ [.data b]) ∧ n.tresult = o.tresult) ∨
    (o.wif = true ∧ o.nackf = false ∧ writing ∧ o.sendbuf.remaining = 0 ∧ 0 < o.srs ∧
        n.tstate = .repeatedStart ∧ n.twiOut = o.twiOut ++ [.rstart (o.sla ||| 1)] ∧ n.tresult = o.tresult) ∨
    (o.wif = true ∧ o.nackf = false ∧ writing ∧ o.sendbuf.remaining = 0 ∧ o.srs = 0 ∧
        n.tstate = .idle ∧ n.twiOut = o.twiOut ++ [.stop] ∧ n.tresult = 1) ∨
    (o.rif = true ∧ reading ∧ 1 < o.srs ∧
        n.tstate = .readingData ∧ n.twiOut = o.twiOut ++ [.ack] ∧ n.tresult = o.tresult) ∨
    (o.rif = true ∧ reading ∧ o.srs = 1 ∧
        n.tstate = .idle ∧ n.twiOut = o.twiOut ++ [.nackStop] ∧ n.tresult = 1) ∨
    (o.arbf = true ∧ inFlight ∧ n.tstate = .arbLost ∧ n.twiOut = o.twiOut ∧ n.tresult = 3) ∨
    (o.berf = true ∧ inFlight ∧ n.tstate = .busError ∧ n.twiOut = o.twiOut ∧ n.tresult = 4)) ∧
  ∀ (m : Move) (s t : State), s.Inv → takeMove m s = .next t →
    t.twi.tstate = .addressPending → s.twi.tstate ≠ .addressPending →
    (s.twi.tstate = .idle ∨ s.twi.tstate = .arbLost ∨ s.twi.tstate = .busError) ∧
      s.twi.busIdle = true ∧ t.twi.busIdle = false ∧ t.twi.twiOut = s.twi.twiOut ++ [.start t.twi.sla] ∧
      t.twi.tresult = s.twi.tresult

/-- R259, which is spec-derived: where the bus may report idle, the outcome of the transaction stands in
`TRESULT`, and reporting idle keeps it. -/
def Obligations.ReadyImpliesRecorded : Prop :=
  ∀ s t : State, s.Inv → exec .evTwiBusIdle s = .next t →
    t.twi.busIdle = true ∧ t.twi.tresult = s.twi.tresult ∧
    ((s.twi.tstate = .idle ∧ (s.twi.tresult = 1 ∨ s.twi.tresult = 2)) ∨
      (s.twi.tstate = .arbLost ∧ s.twi.tresult = 3) ∨ (s.twi.tstate = .busError ∧ s.twi.tresult = 4))

/-- The hang of R257, which is spec-derived: `TWI_AVAILABLE` after a failed read hangs. Once the host waits
in it with bytes still expected, no flag set and no transfer pending, no run ends the wait. -/
def Obligations.AvailableHangsAfterFailedRead : Prop :=
  ∀ (ms : List Move) (s t : State) (e : Bool), s.hstate = .wait .tAvailable e .twiAvailable → 0 < s.twi.srs →
    (s.twi.eng = .none ∨ s.twi.eng = .stop) → s.twi.anyFlag = false → runMoves ms s = .next t →
    t.hstate = s.hstate ∧ t.twi.srs = s.twi.srs

/-! ### Faults (60_exceptions.md) -/

/-- R23 and R221: a recorded fault code is never changed; a step that records one answers it, leaves the host
idle and changes nothing else. -/
def Obligations.FirstFaultIsKept : Prop :=
  ∀ (m : Move) (s t : State), takeMove m s = .next t →
    (s.fault ≠ 0 → t.fault = s.fault) ∧
    (t.fault ≠ s.fault → s.fault = 0 ∧ s.hstate = .idle ∧
      (t.fault = 1 ∨ t.fault = 2 ∨ t.fault = 3) ∧
      t = { s with fault := t.fault, resp := 0x80000000#32 ||| t.fault.setWidth 32 })

/-! ### Buffers (20_memory.md) -/

/-- R72, which is spec-derived from R66 to R70: from any legal ring, every sequence of stores and takes does
what it does to a queue of at most `N - 1` bytes that drops the newest byte when it is full. -/
def Obligations.RingRefinesBoundedQueue : Prop :=
  ∀ (id : MemId) (n : Nat) (rb : RingBuffer) (ops : List RingOp), rb.Wf id n →
    ∃ rb', rb.runOps id n ops = .ok ((queueOps (n - 1) (rb.contents id n) ops).1, rb') ∧
      rb'.Wf id n ∧ rb'.contents id n = (queueOps (n - 1) (rb.contents id n) ops).2 ∧
      (rb'.contents id n).length = rb'.occ n ∧ rb'.occ n ≤ n - 1

/-- R68: a ring is near full for margin `m` exactly when storing `m` more bytes makes it full. -/
def Obligations.NearFullIsMarginToFull : Prop :=
  ∀ (id : MemId) (n m : Nat) (rb : RingBuffer) (bs : List Byte), rb.Wf id n → bs.length = m →
    (rb.nearFull n m = true ↔ rb.occ n + m ≥ n - 1) ∧
    ∃ out rb', rb.runOps id n (bs.map .store) = .ok (out, rb') ∧ (rb.nearFull n m = true ↔ rb'.full n = true)

/-- What R73 to R78 come to, derived here: bytes put into a cleared buffer are read back in order after a
flip, a full buffer refuses the next byte, and each `Get` gives the first unread byte. -/
def Obligations.FlipBufferGivesBytesInOrder : Prop :=
  (∀ (id : MemId) (cap : Nat) (tb : TwiBuffer) (bs : List Byte), tb.data.wf id cap = true → bs.length ≤ cap →
    ∃ filled, bs.foldlM (fun b x => (fun r => r.2) <$> TwiBuffer.put id cap b x) (tb.clear cap) = .ok filled ∧
      filled.Wf id cap ∧ filled.pos = bs.length ∧ filled.remaining = 0 ∧
      filled.flip.unread id = bs ∧ filled.flip.remaining = bs.length ∧
      (bs.length = cap → ∀ x, TwiBuffer.put id cap filled x = .ok (false, filled))) ∧
  ∀ (id : MemId) (cap : Nat) (tb : TwiBuffer), tb.Wf id cap →
    ∃ tb', tb.get id cap = .ok ((tb.unread id).head?, tb') ∧ tb'.Wf id cap ∧ tb'.unread id = (tb.unread id).tail

/-! ### Reset (70_reset_and_hazards.md) -/

/-- R245: every field whose reset value the spec gives has it, for all parameters and draws. The fields it
leaves unspecified are draws (log 3), and nothing is said of them. -/
def Obligations.ResetValues : Prop :=
  State.reset = State.resetWith Config.params Config.draws ∧
  ∀ (p : Params) (d : ResetDraws),
    let s := State.resetWith p d
    (s.ie = false ∧ s.fault = 0 ∧ s.hstate = .idle) ∧
    ((∀ a, s.uart.rxb.storage.byteAt .rxb 0 a = 0) ∧ s.uart.rxb.head = 0 ∧ s.uart.rxb.tail = 0) ∧
    ((∀ a, s.uart.txb.storage.byteAt .txb 0 a = 0) ∧ s.uart.txb.head = 0 ∧ s.uart.txb.tail = 0) ∧
    (s.uart.begun = false ∧ s.uart.transmitting = false ∧ s.uart.rxen = false ∧ s.uart.txen = false ∧
      s.uart.rxcie = false ∧ s.uart.dreie = false ∧ s.uart.dr = false ∧ s.uart.rxSpur = false) ∧
    (s.uart.txhold = none ∧ s.uart.txshift = none ∧ s.uart.dre = true ∧ s.uart.txc = false) ∧
    (s.uart.rtsDriven = false ∧ s.uart.rtsAsserted = false ∧ s.uart.ctsIe = false ∧ s.uart.ctsEdge = false) ∧
    (s.twi.begun = false ∧ s.twi.cap = 0) ∧
    (s.twi.sendbuf.data = [] ∧ s.twi.sendbuf.pos = 0 ∧ s.twi.sendbuf.lim = 0 ∧ s.twi.sendbuf.mode = .fill) ∧
    (s.twi.recvbuf.data = [] ∧ s.twi.recvbuf.pos = 0 ∧ s.twi.recvbuf.lim = 0 ∧ s.twi.recvbuf.mode = .fill) ∧
    (s.twi.sla = 0 ∧ s.twi.srs = 0 ∧ s.twi.txActive = false ∧ s.twi.werr = 0 ∧ s.twi.tresult = 0 ∧
      s.twi.tstate = .idle ∧ s.twi.busIdle = false ∧ s.twi.irqen = false) ∧
    (s.twi.wif = false ∧ s.twi.rif = false ∧ s.twi.nackf = false ∧ s.twi.arbf = false ∧ s.twi.berf = false ∧
      s.twi.eng = .none) ∧
    (s.uart.uartOut = [] ∧ s.twi.twiOut = [] ∧ s.uart.uartIn = [])

/-- R246, which is spec-derived: after reset the host is idle with interrupts off, nothing is pending, and
the only enabled stimuli are `EV_RX_BYTE`, whose byte is lost, and a change of a bound CTS. That a dispatch
which is not enabled is refused by name is the model's choice (log 6). -/
def Obligations.InitialModeAfterReset : Prop :=
  ∀ (p : Params) (d : ResetDraws),
    let s := State.resetWith p d
    s.hstate = .idle ∧ s.ie = false ∧
    (∀ src, s.pending src = false ∧ dispatch src s = .refused .dispatchNotEnabled) ∧
    (∀ data, ∃ t, exec (.evRxByte data) s = .next t ∧ t.uart.dr = false ∧ t.uart.udrRx = s.uart.udrRx) ∧
    (p.ctsBound = true → ∃ t, exec (.evCts (!d.ctsIn)) s = .next t) ∧
    ∀ (o : Origin) (w : Word) (t : State), o ≠ .host → takeWord o w s = .next t →
      (∃ data, decode o w = .ok (.evRxByte data)) ∨
        (p.ctsBound = true ∧ decode o w = .ok (.evCts (!d.ctsIn)))

/-- The state after reset meets the invariant, for all parameters and draws. -/
def Obligations.ResetMeetsInvariant : Prop :=
  State.reset.Inv ∧ ∀ (p : Params) (d : ResetDraws), (State.resetWith p d).Inv

/-! ### The whole machine -/

/-- R64, which is spec-derived: every step keeps the invariant, from every state that meets it, and the
invariant gives each of the rule's seven. -/
def Obligations.StepKeepsInvariant : Prop :=
  (∀ s t : State, s.Inv → step s = .next t → t.Inv) ∧
  ∀ s : State, s.Inv →
    (s.uart.rxb.head < s.cfg.nRx ∧ s.uart.rxb.tail < s.cfg.nRx ∧
      s.uart.txb.head < s.cfg.nTx ∧ s.uart.txb.tail < s.cfg.nTx) ∧
    (s.uart.rxb.occ s.cfg.nRx ≤ s.cfg.nRx - 1 ∧ s.uart.txb.occ s.cfg.nTx ≤ s.cfg.nTx - 1) ∧
    (s.twi.sendbuf.pos ≤ s.twi.sendbuf.lim ∧ s.twi.sendbuf.lim ≤ s.twi.cap ∧
      s.twi.recvbuf.pos ≤ s.twi.recvbuf.lim ∧ s.twi.recvbuf.lim ≤ s.twi.cap) ∧
    s.twi.srs ≤ s.twi.cap ∧
    ¬ (s.twi.wif = true ∧ s.twi.rif = true) ∧
    (s.twi.wif = true ∨ s.twi.rif = true → s.twi.eng = .none) ∧
    (s.twi.txActive = true → s.twi.begun = true)

/-- The last sentence of R65, which is spec-derived: no rule accesses an index outside a memory. From a
state that meets the invariant no step faults, and no poll finds a wait that is not its command's: the stops
of log 5 and log 9 are never reached. -/
def Obligations.NoStepFaultsFromInvariant : Prop :=
  ∀ s : State, s.Inv → (∀ f, step s ≠ .fault f) ∧ step s ≠ .refused .waitMismatch

/-- The ring half of R59: who writes the indices and the bytes of the two rings. -/
def Obligations.RingWriterDiscipline : Prop :=
  ∀ (m : Move) (s t : State), takeMove m s = .next t →
    let begins : Prop := ∃ frame baud, m.instr = some (.uartBegin frame baud)
    let polls (kind : WaitKind) : Prop := m = .poll ∧ ∃ e cmd, s.hstate = .wait kind e cmd
    (t.uart.rxb.storage = s.uart.rxb.storage ∨ m = .dispatch .uartRx) ∧
    (t.uart.rxb.head = s.uart.rxb.head ∨ m = .dispatch .uartRx ∨ begins) ∧
    (t.uart.rxb.tail = s.uart.rxb.tail ∨
      m.instr = some .uartRead ∨ m.instr = some .uartEnd ∨ polls .uEnd ∨ begins) ∧
    (t.uart.txb.storage = s.uart.txb.storage ∧ t.uart.txb.head = s.uart.txb.head ∨
      (∃ data, m.instr = some (.uartWrite data)) ∨ polls .uWrite ∨
        begins ∧ t.uart.txb.storage = s.uart.txb.storage) ∧
    (t.uart.txb.tail = s.uart.txb.tail ∨ m = .dispatch .uartDre ∨
      s.ie = false ∧ ((∃ data, m.instr = some (.uartWrite data)) ∨ m.instr = some .uartFlush) ∨
      polls .uWrite ∨ polls .uFlush ∨ m.instr = some .uartEnd ∨ polls .uEnd ∨ begins)

/-- R134, which is spec-derived: RTS is asserted only by the receive handler, and released only by
`UART_READ` and `UART_BEGIN`; an unbound RTS never changes. -/
def Obligations.RtsChangesOnlyWhereStated : Prop :=
  ∀ (m : Move) (s t : State), takeMove m s = .next t →
    (s.uart.rtsAsserted = false → t.uart.rtsAsserted = true →
      m = .dispatch .uartRx ∧ s.cfg.rtsBound = true ∧ s.uart.rxb.nearFull s.cfg.nRx 3 = true) ∧
    (s.uart.rtsAsserted = true → t.uart.rtsAsserted = false → s.cfg.rtsBound = true ∧
      (m.instr = some .uartRead ∧ s.uart.rxb.nearFull s.cfg.nRx 3 = false ∨
        ∃ frame baud, m.instr = some (.uartBegin frame baud)))

/-- The UART half of R263, which is spec-derived: a `UART_PEEK` that returns a byte, then any run with no
`UART_READ`, `UART_BEGIN` or `UART_END`, then a `UART_READ`: the read returns the same byte. -/
def Obligations.PeekThenReadSameByte : Prop :=
  ∀ (ms : List Move) (s s₁ s₂ t : State), s.uart.rxb.Wf .rxb s.cfg.nRx → s.uart.rxb.empty = false →
    exec .uartPeek s = .next s₁ → KeepsChannel ms → (∀ m ∈ ms, m.instr ≠ some .uartRead) →
    runMoves ms s₁ = .next s₂ → exec .uartRead s₂ = .next t → t.resp = s₁.resp

/-- The order part of R161, which is spec-derived: the transmit path is first-in first-out. In every run
that keeps the channel, from a state that meets the invariant, the bytes that have left the wire, then those
in the hardware, then those in the ring, are what they were with the bytes of the completed writes after
them, in write order. -/
def Obligations.TransmitPathIsFifo : Prop :=
  ∀ (ms : List Move) (s t : State), s.Inv → s.notEnding → KeepsChannel ms → runMoves ms s = .next t →
    t.uart.txPath t.cfg = s.uart.txPath s.cfg ++ alongRun writtenBy ms s

/-- The order part of R160, which is spec-derived: the receive path is first-in first-out. In every run that
keeps the channel, the unread bytes with the bytes that the receive handler kept after them are the bytes
that `UART_READ` returned, in order, with the bytes still unread after them. -/
def Obligations.ReceivePathIsFifo : Prop :=
  ∀ (ms : List Move) (s t : State), s.Inv → s.notEnding → KeepsChannel ms → runMoves ms s = .next t →
    s.uart.rxb.contents .rxb s.cfg.nRx ++ alongRun keptBy ms s =
      alongRun readBy ms s ++ t.uart.rxb.contents .rxb t.cfg.nRx
end

