-- ==== Sys2Proof/Laws/Memory.lean ====
section
/-! SUPPORT. The byte memories (20_memory.md R65): a read after a write gives the byte written, a write
leaves every other byte alone, and every write keeps the canonical form. -/

namespace Sys2Proof.Machine

/-! ### Lookup -/

@[simp] theorem Memory.listed_nil (i : Nat) : Memory.listed [] i = none := rfl

theorem Memory.listed_cons (a : Nat) (b : Byte) (m : Memory) (i : Nat) :
    Memory.listed ((a, b) :: m) i = if a = i then some b else m.listed i := rfl

theorem Memory.listed_insert (m : Memory) (i : Nat) (b : Byte) (j : Nat) :
    (m.insert i b).listed j = if j = i then some b else m.listed j := by
  induction m with
  | nil =>
    by_cases h : j = i
    · simp [Memory.insert, Memory.listed, h]
    · simp [Memory.insert, Memory.listed, h, Ne.symm h]
  | cons c m ih =>
    obtain ⟨a, x⟩ := c
    unfold Memory.insert
    split
    · by_cases h : j = i
      · simp [Memory.listed_cons, h]
      · simp [Memory.listed_cons, h, Ne.symm h]
    · split
      · next h1 h2 =>
        subst h2
        by_cases h : j = i
        · simp [Memory.listed_cons, h]
        · simp [Memory.listed_cons, h, Ne.symm h]
      · next h1 h2 =>
        rw [Memory.listed_cons, Memory.listed_cons, ih]
        by_cases h : a = j
        · subst h; simp [Ne.symm h2]
        · simp [h]

/-! ### Rising indices -/

theorem Memory.risesFrom_mono {lo hi : Nat} {m : Memory} (h : Memory.risesFrom hi m = true) (le : lo ≤ hi) :
    Memory.risesFrom lo m = true := by
  cases m with
  | nil => rfl
  | cons c m =>
    obtain ⟨a, x⟩ := c
    simp only [Memory.risesFrom, Bool.and_eq_true, decide_eq_true_eq] at h ⊢
    exact ⟨by omega, h.2⟩

theorem Memory.listed_eq_none_of_risesFrom {lo : Nat} {m : Memory} (h : Memory.risesFrom lo m = true) {i : Nat}
    (lt : i < lo) : m.listed i = none := by
  induction m generalizing lo with
  | nil => rfl
  | cons c m ih =>
    obtain ⟨a, x⟩ := c
    simp only [Memory.risesFrom, Bool.and_eq_true, decide_eq_true_eq] at h
    rw [Memory.listed_cons, if_neg (by omega)]
    exact ih h.2 (by omega)

theorem Memory.listed_erase {lo : Nat} {m : Memory} (h : Memory.risesFrom lo m = true) (i j : Nat) :
    (m.erase i).listed j = if j = i then none else m.listed j := by
  induction m generalizing lo with
  | nil => simp [Memory.erase]
  | cons c m ih =>
    obtain ⟨a, x⟩ := c
    simp only [Memory.risesFrom, Bool.and_eq_true, decide_eq_true_eq] at h
    unfold Memory.erase
    split
    · next e =>
      subst e
      by_cases hj : j = a
      · subst hj; simp [Memory.listed_eq_none_of_risesFrom h.2 (Nat.lt_succ_self _)]
      · simp [Memory.listed_cons, hj, Ne.symm hj]
    · next e =>
      rw [Memory.listed_cons, Memory.listed_cons, ih h.2]
      by_cases hj : a = j
      · subst hj; simp [e]
      · simp [hj]

theorem Memory.risesFrom_insert {lo : Nat} {m : Memory} (h : Memory.risesFrom lo m = true) {i : Nat} (le : lo ≤ i)
    (b : Byte) : Memory.risesFrom lo (m.insert i b) = true := by
  induction m generalizing lo with
  | nil => simp [Memory.insert, Memory.risesFrom, le]
  | cons c m ih =>
    obtain ⟨a, x⟩ := c
    simp only [Memory.risesFrom, Bool.and_eq_true, decide_eq_true_eq] at h
    unfold Memory.insert
    split
    · next lt => simp [Memory.risesFrom, le, h.2]; omega
    · split
      · next e => subst e; simp [Memory.risesFrom, le, h.2]
      · next h1 h2 => simp [Memory.risesFrom, h.1, ih h.2 (by omega)]

theorem Memory.risesFrom_erase {lo : Nat} {m : Memory} (h : Memory.risesFrom lo m = true) (i : Nat) :
    Memory.risesFrom lo (m.erase i) = true := by
  induction m generalizing lo with
  | nil => rfl
  | cons c m ih =>
    obtain ⟨a, x⟩ := c
    simp only [Memory.risesFrom, Bool.and_eq_true, decide_eq_true_eq] at h
    unfold Memory.erase
    split
    · exact Memory.risesFrom_mono h.2 (by omega)
    · simp [Memory.risesFrom, h.1, ih h.2]

/-! ### What the cells satisfy -/

theorem Memory.all_insert {q : Host.Cell → Bool} {m : Memory} (h : m.all q = true) {i : Nat} {b : Byte}
    (hb : q (i, b) = true) : (m.insert i b).all q = true := by
  induction m with
  | nil => simp [Memory.insert, hb]
  | cons c m ih =>
    obtain ⟨a, x⟩ := c
    simp only [List.all_cons, Bool.and_eq_true] at h
    unfold Memory.insert
    split
    · simp [hb, h.1, h.2]
    · split
      · simp [hb, h.2]
      · simp [h.1, ih h.2]

theorem Memory.all_erase {q : Host.Cell → Bool} {m : Memory} (h : m.all q = true) (i : Nat) :
    (m.erase i).all q = true := by
  induction m with
  | nil => rfl
  | cons c m ih =>
    obtain ⟨a, x⟩ := c
    simp only [List.all_cons, Bool.and_eq_true] at h
    unfold Memory.erase
    split
    · exact h.2
    · simp [h.1, ih h.2]

/-! ### The canonical form -/

theorem Memory.wf_iff (id : MemId) (size : Nat) (m : Memory) :
    m.wf id size = true ↔ Memory.risesFrom 0 m = true ∧
      m.all (fun c => decide (c.1 < size) && decide (neverListed id ≠ some c.2)) = true := by
  simp [Memory.wf]

@[simp] theorem Memory.wf_nil (id : MemId) (size : Nat) : Memory.wf id size [] = true := rfl

/-- A write inside the memory keeps the canonical form. -/
theorem Memory.wf_put {id : MemId} {size : Nat} {m : Memory} (h : m.wf id size = true) {i : Nat} (lt : i < size)
    (b : Byte) : (Memory.put id m i b).wf id size = true := by
  rw [Memory.wf_iff] at h ⊢
  unfold Memory.put
  split
  · exact ⟨Memory.risesFrom_erase h.1 i, Memory.all_erase h.2 i⟩
  · next hb => exact ⟨Memory.risesFrom_insert h.1 (Nat.zero_le i) b, Memory.all_insert h.2 (by simp [lt, hb])⟩

theorem unlisted_of_neverListed {id : MemId} {b : Byte} (h : neverListed id = some b) (draw i : Nat) :
    unlisted id draw i = b := by
  cases id <;> simp_all [neverListed, unlisted]

/-- A read after a write: the byte written there, and every other byte as before. -/
theorem Memory.byteAt_put {id : MemId} {size : Nat} {m : Memory} (h : m.wf id size = true) (draw i : Nat) (b : Byte)
    (j : Nat) : (Memory.put id m i b).byteAt id draw j = if j = i then b else m.byteAt id draw j := by
  rw [Memory.wf_iff] at h
  unfold Memory.put Memory.byteAt
  split
  · next hb =>
    rw [Memory.listed_erase h.1]
    by_cases e : j = i
    · simp [e, unlisted_of_neverListed hb]
    · simp [e]
  · rw [Memory.listed_insert]
    by_cases e : j = i <;> simp [e]

/-! ### Access -/

/-- Everything `memRead` can answer. -/
theorem memRead_eq_ok {id : MemId} {size draw : Nat} {m : Memory} {i : Nat} {b : Byte} :
    memRead id size draw m i = .ok b ↔ i < size ∧ b = m.byteAt id draw i := by
  unfold memRead
  split <;> simp_all [eq_comm]

@[simp] theorem memRead_of_lt {id : MemId} {size draw : Nat} {m : Memory} {i : Nat} (h : i < size) :
    memRead id size draw m i = .ok (m.byteAt id draw i) := by simp [memRead, h]

/-- Everything `memWrite` can answer. -/
theorem memWrite_eq_ok {id : MemId} {size : Nat} {m m' : Memory} {i : Nat} {b : Byte} :
    memWrite id size m i b = .ok m' ↔ i < size ∧ m' = Memory.put id m i b := by
  unfold memWrite
  split <;> simp_all [eq_comm]

@[simp] theorem memWrite_of_lt {id : MemId} {size : Nat} {m : Memory} {i : Nat} {b : Byte} (h : i < size) :
    memWrite id size m i b = .ok (Memory.put id m i b) := by simp [memWrite, h]

/-- A write that is answered keeps the canonical form. -/
theorem memWrite_wf {id : MemId} {size : Nat} {m m' : Memory} {i : Nat} {b : Byte} (h : m.wf id size = true)
    (w : memWrite id size m i b = .ok m') : m'.wf id size = true := by
  obtain ⟨lt, rfl⟩ := memWrite_eq_ok.1 w
  exact Memory.wf_put h lt b

end Sys2Proof.Machine
end

