-- ==== Sys2Proof/Laws/Results.lean ====
section
/-! SUPPORT. Results and outcomes: how a `do` block, a host command and a stimulus come apart. -/

namespace Sys2Proof.Machine

@[simp] theorem ok_bind {α β : Type} (a : α) (f : α → Except Fault β) : (Except.ok a >>= f) = f a := rfl

@[simp] theorem error_bind {α β : Type} (e : Fault) (f : α → Except Fault β) :
    (Except.error e >>= f) = Except.error e := rfl

/-- A `do` block that answers has a first part that answers. -/
theorem bind_eq_ok {α β : Type} {x : Except Fault α} {f : α → Except Fault β} {b : β} :
    (x >>= f) = .ok b ↔ ∃ a, x = .ok a ∧ f a = .ok b := by
  cases x <;> simp

@[simp] theorem toOutcome_ok (s : State) : toOutcome (.ok s) = .next s := rfl

@[simp] theorem toOutcome_error (e : Fault) : toOutcome (.error e) = .fault e := rfl

@[simp] theorem toOutcome_eq_next {r : Except Fault State} {t : State} : toOutcome r = .next t ↔ r = .ok t := by
  cases r <;> simp [toOutcome]

@[simp] theorem toOutcome_eq_fault {r : Except Fault State} {e : Fault} : toOutcome r = .fault e ↔ r = .error e := by
  cases r <;> simp [toOutcome]

@[simp] theorem toOutcome_ne_refused {r : Except Fault State} {e : Refusal} : toOutcome r ≠ .refused e := by
  cases r <;> simp [toOutcome]

/-- A command issued by an idle host runs its body. -/
theorem hostCommand_of_idle {s : State} (h : s.hstate = .idle) (body : State → Except Fault State) :
    hostCommand body s = toOutcome (body s) := by
  unfold hostCommand; rw [h]

/-- Everything a host command can answer with a next state. -/
theorem hostCommand_eq_next {body : State → Except Fault State} {s t : State} :
    hostCommand body s = .next t ↔ s.hstate = .idle ∧ body s = .ok t := by
  unfold hostCommand
  cases h : s.hstate <;> simp

theorem hostCommand_eq_fault {body : State → Except Fault State} {s : State} {e : Fault} :
    hostCommand body s = .fault e ↔ s.hstate = .idle ∧ body s = .error e := by
  unfold hostCommand
  cases h : s.hstate <;> simp

/-- Everything a stimulus can answer with a next state. -/
theorem stimulus_eq_next {enabled : Bool} {t t' : State} :
    stimulus enabled t = .next t' ↔ enabled = true ∧ t' = t := by
  unfold stimulus
  cases enabled <;> simp [eq_comm]

theorem stimulus_ne_fault {enabled : Bool} {t : State} {e : Fault} : stimulus enabled t ≠ .fault e := by
  unfold stimulus
  cases enabled <;> simp

end Sys2Proof.Machine
end

