-- ==== Sys2Proof/Laws/Buffers.lean ====
section
/-! SUPPORT. The ring buffer and TWI buffer primitives (20_memory.md R66 to R79): what each can answer,
that each keeps the buffer legal, and what it does to the contents. -/

namespace Sys2Proof.Machine

/-! ### Indices modulo `n` -/

theorem mod_of_lt_two_mul {a n : Nat} (h : a < 2 * n) : a % n = if a < n then a else a - n := by
  split
  · next lt => exact Nat.mod_eq_of_lt lt
  · next ge => rw [Nat.mod_eq_sub_mod (by omega), Nat.mod_eq_of_lt (by omega)]

theorem next_index {i n : Nat} (h : i < n) : (i + 1) % n = if i + 1 = n then 0 else i + 1 := by
  split
  · next e => simp [e]
  · next e => exact Nat.mod_eq_of_lt (by omega)

/-! ### Ring indices -/

/-- `Occ` of a ring whose indices are in range, without a remainder (R66). -/
theorem RingBuffer.occ_eq {rb : RingBuffer} {n : Nat} (h : rb.head < n) (t : rb.tail < n) :
    rb.occ n = if rb.tail ≤ rb.head then rb.head - rb.tail else rb.head + n - rb.tail := by
  unfold RingBuffer.occ
  split
  · next le =>
    rw [Int.emod_eq_of_lt (by omega) (by omega)]; omega
  · next gt =>
    have e : ((rb.head : Int) - rb.tail) % n = (rb.head : Int) - rb.tail + n := by
      rw [← Int.add_emod_right, Int.emod_eq_of_lt (by omega) (by omega)]
    rw [e]; omega

theorem RingBuffer.empty_iff {rb : RingBuffer} : rb.empty = true ↔ rb.head = rb.tail := by
  simp [RingBuffer.empty]

theorem RingBuffer.empty_iff_occ {rb : RingBuffer} {n : Nat} (h : rb.head < n) (t : rb.tail < n) :
    rb.empty = true ↔ rb.occ n = 0 := by
  rw [RingBuffer.empty_iff, RingBuffer.occ_eq h t]
  split <;> omega

/-- `Full` holds exactly when `Occ = N - 1` (R67). -/
theorem RingBuffer.full_iff_occ {rb : RingBuffer} {n : Nat} (h : rb.head < n) (t : rb.tail < n) :
    rb.full n = true ↔ rb.occ n = n - 1 := by
  unfold RingBuffer.full
  rw [beq_iff_eq, next_index h, RingBuffer.occ_eq h t]
  split <;> split <;> omega

theorem RingBuffer.occ_lt {rb : RingBuffer} {n : Nat} (h : rb.head < n) (t : rb.tail < n) : rb.occ n < n := by
  rw [RingBuffer.occ_eq h t]
  split <;> omega

theorem RingBuffer.wf_of {id : MemId} {n : Nat} {rb : RingBuffer} (h : rb.head < n) (t : rb.tail < n)
    (w : rb.storage.wf id n = true) : rb.Wf id n :=
  ⟨h, t, by have := RingBuffer.occ_lt h t; omega, w⟩

/-! ### Ring contents -/

theorem RingBuffer.length_contents (id : MemId) (n : Nat) (rb : RingBuffer) :
    (rb.contents id n).length = rb.occ n := by simp [RingBuffer.contents]

theorem RingBuffer.contents_of_empty {id : MemId} {n : Nat} {rb : RingBuffer} (h : rb.empty = true) :
    rb.contents id n = [] := by
  rw [RingBuffer.empty_iff] at h
  simp [RingBuffer.contents, RingBuffer.occ, h]

/-- `Store` on a ring with room appends the byte (R69). -/
theorem RingBuffer.contents_append {id : MemId} {n : Nat} {rb : RingBuffer} (w : rb.Wf id n)
    (room : rb.full n = false) (b : Byte) :
    RingBuffer.contents id n { rb with storage := rb.storage.put id rb.head b, head := (rb.head + 1) % n } =
      rb.contents id n ++ [b] := by
  have h := w.head_lt
  have t := w.tail_lt
  have nf : ¬ rb.occ n = n - 1 := by
    rw [← RingBuffer.full_iff_occ h t, room]; simp
  have lt := RingBuffer.occ_lt h t
  have e := RingBuffer.occ_eq h t
  have h' : (rb.head + 1) % n < n := Nat.mod_lt _ (by omega)
  have e' : RingBuffer.occ { rb with storage := rb.storage.put id rb.head b, head := (rb.head + 1) % n } n =
      rb.occ n + 1 := by
    rw [RingBuffer.occ_eq (by exact h') (by exact t)]
    simp only [next_index h]
    rw [e] at nf ⊢
    split at nf <;> split <;> (split <;> omega)
  unfold RingBuffer.contents
  rw [e', List.range_succ, List.map_append]
  congr 1
  · apply List.map_congr_left
    intro k hk
    rw [List.mem_range] at hk
    simp only [Memory.byteAt_put w.storage_wf]
    rw [if_neg]
    rw [mod_of_lt_two_mul (by omega)]
    rw [e] at hk
    split <;> (split at hk <;> omega)
  · simp only [List.map_cons, List.map_nil, Memory.byteAt_put w.storage_wf]
    rw [if_pos]
    rw [mod_of_lt_two_mul (by omega), e]
    split <;> (split <;> omega)

/-- `Take` on a ring that is not empty removes the oldest byte, which is the one at `tail` (R70). -/
theorem RingBuffer.contents_eq_cons {id : MemId} {n : Nat} {rb : RingBuffer} (w : rb.Wf id n)
    (ne : rb.empty = false) :
    rb.contents id n = rb.storage.byteAt id 0 rb.tail ::
      RingBuffer.contents id n { rb with tail := (rb.tail + 1) % n } := by
  have h := w.head_lt
  have t := w.tail_lt
  have pos : rb.occ n ≠ 0 := by
    rw [Ne, ← RingBuffer.empty_iff_occ h t, ne]; simp
  have e := RingBuffer.occ_eq h t
  have t' : (rb.tail + 1) % n < n := Nat.mod_lt _ (by omega)
  have e' : rb.occ n = RingBuffer.occ { rb with tail := (rb.tail + 1) % n } n + 1 := by
    rw [RingBuffer.occ_eq (rb := { rb with tail := (rb.tail + 1) % n }) h t']
    simp only [next_index t]
    rw [e] at pos ⊢
    clear e w ne t'
    split_ifs at pos ⊢ <;> omega
  unfold RingBuffer.contents
  rw [e', List.range_succ_eq_map, List.map_cons, List.map_map]
  congr 1
  · simp [Nat.mod_eq_of_lt t]
  · apply List.map_congr_left
    intro k _
    simp only [Function.comp_apply, Nat.mod_add_mod]
    congr 2
    omega

/-! ### Ring primitives -/

/-- Everything `Store` can answer (R69). -/
theorem RingBuffer.store_eq_ok {id : MemId} {n : Nat} {rb rb' : RingBuffer} {b : Byte}
    (h : rb.store id n b = .ok rb') :
    (rb.full n = true ∧ rb' = rb) ∨
      (rb.full n = false ∧ rb.head < n ∧
        rb' = { rb with storage := rb.storage.put id rb.head b, head := (rb.head + 1) % n }) := by
  unfold RingBuffer.store at h
  split at h
  · next f => exact .inl ⟨f, by simpa [eq_comm] using h⟩
  · next f =>
    obtain ⟨st, w, e⟩ := bind_eq_ok.1 h
    obtain ⟨lt, rfl⟩ := memWrite_eq_ok.1 w
    exact .inr ⟨by simpa using f, lt, by simpa [eq_comm] using e⟩

theorem RingBuffer.store_of_full {id : MemId} {n : Nat} {rb : RingBuffer} (h : rb.full n = true) (b : Byte) :
    rb.store id n b = .ok rb := by simp [RingBuffer.store, h]

theorem RingBuffer.store_of_room {id : MemId} {n : Nat} {rb : RingBuffer} (h : rb.full n = false) (lt : rb.head < n)
    (b : Byte) :
    rb.store id n b = .ok { rb with storage := rb.storage.put id rb.head b, head := (rb.head + 1) % n } := by
  simp [RingBuffer.store, h, lt]

/-- `Store` keeps the ring legal. -/
theorem RingBuffer.store_wf {id : MemId} {n : Nat} {rb rb' : RingBuffer} {b : Byte} (w : rb.Wf id n)
    (h : rb.store id n b = .ok rb') : rb'.Wf id n := by
  rcases RingBuffer.store_eq_ok h with ⟨-, rfl⟩ | ⟨-, lt, rfl⟩
  · exact w
  · exact RingBuffer.wf_of (Nat.mod_lt _ (by omega)) w.tail_lt (Memory.wf_put w.storage_wf lt b)

/-- Everything `Take` can answer (R70). -/
theorem RingBuffer.take_eq_ok {id : MemId} {n : Nat} {rb : RingBuffer} {r : Option Byte × RingBuffer}
    (h : rb.take id n = .ok r) :
    (rb.empty = true ∧ r = (none, rb)) ∨
      (rb.empty = false ∧ rb.tail < n ∧
        r = (some (rb.storage.byteAt id 0 rb.tail), { rb with tail := (rb.tail + 1) % n })) := by
  unfold RingBuffer.take at h
  split at h
  · next e => exact .inl ⟨e, by simpa [eq_comm] using h⟩
  · next e =>
    obtain ⟨b, m, o⟩ := bind_eq_ok.1 h
    obtain ⟨lt, rfl⟩ := memRead_eq_ok.1 m
    exact .inr ⟨by simpa using e, lt, by simpa [eq_comm] using o⟩

theorem RingBuffer.take_of_empty {id : MemId} {n : Nat} {rb : RingBuffer} (h : rb.empty = true) :
    rb.take id n = .ok (none, rb) := by simp [RingBuffer.take, h]

theorem RingBuffer.take_of_some {id : MemId} {n : Nat} {rb : RingBuffer} (h : rb.empty = false) (lt : rb.tail < n) :
    rb.take id n = .ok (some (rb.storage.byteAt id 0 rb.tail), { rb with tail := (rb.tail + 1) % n }) := by
  simp [RingBuffer.take, h, lt]

/-- `Take` keeps the ring legal. -/
theorem RingBuffer.take_wf {id : MemId} {n : Nat} {rb : RingBuffer} {r : Option Byte × RingBuffer} (w : rb.Wf id n)
    (h : rb.take id n = .ok r) : r.2.Wf id n := by
  rcases RingBuffer.take_eq_ok h with ⟨-, rfl⟩ | ⟨-, lt, rfl⟩
  · exact w
  · exact RingBuffer.wf_of w.head_lt (Nat.mod_lt _ (by omega)) w.storage_wf

/-- `Front` of a legal ring is the first of its contents (R71). -/
theorem RingBuffer.front_eq {id : MemId} {n : Nat} {rb : RingBuffer} (w : rb.Wf id n) :
    rb.front id n = .ok (rb.contents id n).head? := by
  unfold RingBuffer.front
  split
  · next e => simp [RingBuffer.contents_of_empty e]
  · next e => simp [w.tail_lt, RingBuffer.contents_eq_cons w (by simpa using e)]

/-! ### TWI buffer primitives -/

@[simp] theorem TwiBuffer.clear_pos (cap : Nat) (tb : TwiBuffer) : (tb.clear cap).pos = 0 := rfl
@[simp] theorem TwiBuffer.clear_lim (cap : Nat) (tb : TwiBuffer) : (tb.clear cap).lim = cap := rfl
@[simp] theorem TwiBuffer.clear_mode (cap : Nat) (tb : TwiBuffer) : (tb.clear cap).mode = .fill := rfl
@[simp] theorem TwiBuffer.clear_data (cap : Nat) (tb : TwiBuffer) : (tb.clear cap).data = tb.data := rfl
@[simp] theorem TwiBuffer.clear_draw (cap : Nat) (tb : TwiBuffer) : (tb.clear cap).draw = tb.draw := rfl
@[simp] theorem TwiBuffer.allocate_data (k : Nat) (tb : TwiBuffer) : (tb.allocate k).data = [] := rfl
@[simp] theorem TwiBuffer.allocate_draw (k : Nat) (tb : TwiBuffer) : (tb.allocate k).draw = k := rfl

theorem TwiBuffer.flip_of_fill {tb : TwiBuffer} (h : tb.mode = .fill) :
    tb.flip = { tb with lim := tb.pos, pos := 0, mode := .drain } := by simp [TwiBuffer.flip, h]

theorem TwiBuffer.flip_of_drain {tb : TwiBuffer} (h : tb.mode = .drain) : tb.flip = tb := by
  simp [TwiBuffer.flip, h]

theorem TwiBuffer.remaining_of_fill {tb : TwiBuffer} (h : tb.mode = .fill) : tb.remaining = 0 := by
  simp [TwiBuffer.remaining, h]

theorem TwiBuffer.remaining_of_drain {tb : TwiBuffer} (h : tb.mode = .drain) : tb.remaining = tb.lim - tb.pos := by
  simp [TwiBuffer.remaining, h]

/-- Bytes remain exactly when a draining buffer has not been read to its limit (R76, R78). -/
theorem TwiBuffer.remaining_pos_iff {tb : TwiBuffer} : 0 < tb.remaining ↔ tb.mode = .drain ∧ tb.pos < tb.lim := by
  unfold TwiBuffer.remaining
  cases tb.mode <;> simp

theorem TwiBuffer.clear_wf {id : MemId} {cap : Nat} {tb : TwiBuffer} (w : tb.data.wf id cap = true) :
    (tb.clear cap).Wf id cap :=
  ⟨Nat.zero_le _, Nat.le_refl _, fun _ => rfl, w⟩

theorem TwiBuffer.flip_wf {id : MemId} {cap : Nat} {tb : TwiBuffer} (w : tb.Wf id cap) : tb.flip.Wf id cap := by
  cases h : tb.mode with
  | fill =>
    rw [TwiBuffer.flip_of_fill h]
    exact ⟨Nat.zero_le _, Nat.le_trans w.pos_le w.lim_le, by simp, w.data_wf⟩
  | drain => rw [TwiBuffer.flip_of_drain h]; exact w

/-- Everything `Put` can answer (R75). -/
theorem TwiBuffer.put_eq_ok {id : MemId} {cap : Nat} {tb : TwiBuffer} {b : Byte} {r : Bool × TwiBuffer}
    (h : tb.put id cap b = .ok r) :
    (tb.mode = .fill ∧ tb.pos < tb.lim ∧ tb.pos < cap ∧
        r = (true, { tb with data := tb.data.put id tb.pos b, pos := tb.pos + 1 })) ∨
      (¬ (tb.mode = .fill ∧ tb.pos < tb.lim) ∧ r = (false, tb)) := by
  unfold TwiBuffer.put at h
  split at h
  · next c =>
    obtain ⟨d, m, o⟩ := bind_eq_ok.1 h
    obtain ⟨lt, rfl⟩ := memWrite_eq_ok.1 m
    exact .inl ⟨c.1, c.2, lt, by simpa [eq_comm] using o⟩
  · next c => exact .inr ⟨c, by simpa [eq_comm] using h⟩

theorem TwiBuffer.put_of_room {id : MemId} {cap : Nat} {tb : TwiBuffer} (w : tb.Wf id cap) (m : tb.mode = .fill)
    (lt : tb.pos < tb.lim) (b : Byte) :
    tb.put id cap b = .ok (true, { tb with data := tb.data.put id tb.pos b, pos := tb.pos + 1 }) := by
  have : tb.pos < cap := Nat.lt_of_lt_of_le lt w.lim_le
  simp [TwiBuffer.put, m, lt, this]

theorem TwiBuffer.put_of_no_room {id : MemId} {cap : Nat} {tb : TwiBuffer} (h : ¬ (tb.mode = .fill ∧ tb.pos < tb.lim))
    (b : Byte) : tb.put id cap b = .ok (false, tb) := by rw [TwiBuffer.put, if_neg h]

/-- `Put` keeps the buffer legal. -/
theorem TwiBuffer.put_wf {id : MemId} {cap : Nat} {tb : TwiBuffer} {b : Byte} {r : Bool × TwiBuffer}
    (w : tb.Wf id cap) (h : tb.put id cap b = .ok r) : r.2.Wf id cap := by
  rcases TwiBuffer.put_eq_ok h with ⟨m, lt, ltc, rfl⟩ | ⟨-, rfl⟩
  · exact ⟨lt, w.lim_le, w.fill_lim, Memory.wf_put w.data_wf ltc b⟩
  · exact w

/-- Everything `Get` can answer (R76). -/
theorem TwiBuffer.get_eq_ok {id : MemId} {cap : Nat} {tb : TwiBuffer} {r : Option Byte × TwiBuffer}
    (h : tb.get id cap = .ok r) :
    (tb.mode = .drain ∧ tb.pos < tb.lim ∧ tb.pos < cap ∧
        r = (some (tb.data.byteAt id tb.draw tb.pos), { tb with pos := tb.pos + 1 })) ∨
      (¬ (tb.mode = .drain ∧ tb.pos < tb.lim) ∧ r = (none, tb)) := by
  unfold TwiBuffer.get at h
  split at h
  · next c =>
    obtain ⟨b, m, o⟩ := bind_eq_ok.1 h
    obtain ⟨lt, rfl⟩ := memRead_eq_ok.1 m
    exact .inl ⟨c.1, c.2, lt, by simpa [eq_comm] using o⟩
  · next c => exact .inr ⟨c, by simpa [eq_comm] using h⟩

theorem TwiBuffer.get_of_some {id : MemId} {cap : Nat} {tb : TwiBuffer} (w : tb.Wf id cap) (m : tb.mode = .drain)
    (lt : tb.pos < tb.lim) :
    tb.get id cap = .ok (some (tb.data.byteAt id tb.draw tb.pos), { tb with pos := tb.pos + 1 }) := by
  have : tb.pos < cap := Nat.lt_of_lt_of_le lt w.lim_le
  simp [TwiBuffer.get, m, lt, this]

theorem TwiBuffer.get_of_none {id : MemId} {cap : Nat} {tb : TwiBuffer} (h : ¬ (tb.mode = .drain ∧ tb.pos < tb.lim)) :
    tb.get id cap = .ok (none, tb) := by rw [TwiBuffer.get, if_neg h]

/-- `Get` keeps the buffer legal. -/
theorem TwiBuffer.get_wf {id : MemId} {cap : Nat} {tb : TwiBuffer} {r : Option Byte × TwiBuffer}
    (w : tb.Wf id cap) (h : tb.get id cap = .ok r) : r.2.Wf id cap := by
  rcases TwiBuffer.get_eq_ok h with ⟨m, lt, -, rfl⟩ | ⟨-, rfl⟩
  · exact ⟨lt, w.lim_le, w.fill_lim, w.data_wf⟩
  · exact w

/-- A legal buffer with unread bytes gives the first of them (R76). -/
theorem TwiBuffer.unread_eq_cons {id : MemId} {tb : TwiBuffer} (h : 0 < tb.remaining) :
    tb.unread id = tb.data.byteAt id tb.draw tb.pos :: TwiBuffer.unread id { tb with pos := tb.pos + 1 } := by
  obtain ⟨m, lt⟩ := TwiBuffer.remaining_pos_iff.1 h
  have e : tb.remaining = TwiBuffer.remaining { tb with pos := tb.pos + 1 } + 1 := by
    simp only [TwiBuffer.remaining, m]; omega
  unfold TwiBuffer.unread
  rw [e, List.range_succ_eq_map, List.map_cons, List.map_map]
  congr 1
  apply List.map_congr_left
  intro k _
  simp only [Function.comp_apply]
  congr 1
  omega

theorem TwiBuffer.unread_of_none {id : MemId} {tb : TwiBuffer} (h : ¬ 0 < tb.remaining) : tb.unread id = [] := by
  have : tb.remaining = 0 := by omega
  simp [TwiBuffer.unread, this]

/-- `PeekB` of a legal buffer is the first unread byte (R79). -/
theorem TwiBuffer.peekB_eq {id : MemId} {cap : Nat} {tb : TwiBuffer} (w : tb.Wf id cap) :
    tb.peekB id cap = .ok (tb.unread id).head? := by
  unfold TwiBuffer.peekB
  split
  · next c =>
    have : tb.pos < cap := Nat.lt_of_lt_of_le c.2 w.lim_le
    simp [this, TwiBuffer.unread_eq_cons (TwiBuffer.remaining_pos_iff.2 c)]
  · next c =>
    rw [TwiBuffer.unread_of_none (by rwa [TwiBuffer.remaining_pos_iff])]
    rfl

end Sys2Proof.Machine
end

