-- ==== Sys2Proof/Laws/State.lean ====
section
/-! SUPPORT. What each named update leaves in each field, by definition: one lemma for each field of each
update, so that no proof unfolds a record update. -/

namespace Sys2Proof.Machine

/-! `State.respond` -/

@[simp] theorem State.respond_cfg (s : State) (v : Word) : (s.respond v).cfg = s.cfg := rfl
@[simp] theorem State.respond_sched (s : State) (v : Word) : (s.respond v).sched = s.sched := rfl
@[simp] theorem State.respond_ie (s : State) (v : Word) : (s.respond v).ie = s.ie := rfl
@[simp] theorem State.respond_fault (s : State) (v : Word) : (s.respond v).fault = s.fault := rfl
@[simp] theorem State.respond_hstate (s : State) (v : Word) : (s.respond v).hstate = s.hstate := rfl
@[simp] theorem State.respond_resp (s : State) (v : Word) : (s.respond v).resp = v := rfl
@[simp] theorem State.respond_uart (s : State) (v : Word) : (s.respond v).uart = s.uart := rfl
@[simp] theorem State.respond_twi (s : State) (v : Word) : (s.respond v).twi = s.twi := rfl

/-! `State.setUart` -/

@[simp] theorem State.setUart_cfg (s : State) (u : Uart) : (s.setUart u).cfg = s.cfg := rfl
@[simp] theorem State.setUart_sched (s : State) (u : Uart) : (s.setUart u).sched = s.sched := rfl
@[simp] theorem State.setUart_ie (s : State) (u : Uart) : (s.setUart u).ie = s.ie := rfl
@[simp] theorem State.setUart_fault (s : State) (u : Uart) : (s.setUart u).fault = s.fault := rfl
@[simp] theorem State.setUart_hstate (s : State) (u : Uart) : (s.setUart u).hstate = s.hstate := rfl
@[simp] theorem State.setUart_resp (s : State) (u : Uart) : (s.setUart u).resp = s.resp := rfl
@[simp] theorem State.setUart_uart (s : State) (u : Uart) : (s.setUart u).uart = u := rfl
@[simp] theorem State.setUart_twi (s : State) (u : Uart) : (s.setUart u).twi = s.twi := rfl

/-! `State.setTwi` -/

@[simp] theorem State.setTwi_cfg (s : State) (t : Twi) : (s.setTwi t).cfg = s.cfg := rfl
@[simp] theorem State.setTwi_sched (s : State) (t : Twi) : (s.setTwi t).sched = s.sched := rfl
@[simp] theorem State.setTwi_ie (s : State) (t : Twi) : (s.setTwi t).ie = s.ie := rfl
@[simp] theorem State.setTwi_fault (s : State) (t : Twi) : (s.setTwi t).fault = s.fault := rfl
@[simp] theorem State.setTwi_hstate (s : State) (t : Twi) : (s.setTwi t).hstate = s.hstate := rfl
@[simp] theorem State.setTwi_resp (s : State) (t : Twi) : (s.setTwi t).resp = s.resp := rfl
@[simp] theorem State.setTwi_uart (s : State) (t : Twi) : (s.setTwi t).uart = s.uart := rfl
@[simp] theorem State.setTwi_twi (s : State) (t : Twi) : (s.setTwi t).twi = t := rfl

/-! `State.setHost` -/

@[simp] theorem State.setHost_cfg (s : State) (h : HostState) : (s.setHost h).cfg = s.cfg := rfl
@[simp] theorem State.setHost_sched (s : State) (h : HostState) : (s.setHost h).sched = s.sched := rfl
@[simp] theorem State.setHost_ie (s : State) (h : HostState) : (s.setHost h).ie = s.ie := rfl
@[simp] theorem State.setHost_fault (s : State) (h : HostState) : (s.setHost h).fault = s.fault := rfl
@[simp] theorem State.setHost_hstate (s : State) (h : HostState) : (s.setHost h).hstate = h := rfl
@[simp] theorem State.setHost_resp (s : State) (h : HostState) : (s.setHost h).resp = s.resp := rfl
@[simp] theorem State.setHost_uart (s : State) (h : HostState) : (s.setHost h).uart = s.uart := rfl
@[simp] theorem State.setHost_twi (s : State) (h : HostState) : (s.setHost h).twi = s.twi := rfl

/-! `State.raise` -/

@[simp] theorem State.raise_cfg (s : State) (f : FaultCode) : (s.raise f).cfg = s.cfg := rfl
@[simp] theorem State.raise_sched (s : State) (f : FaultCode) : (s.raise f).sched = s.sched := rfl
@[simp] theorem State.raise_ie (s : State) (f : FaultCode) : (s.raise f).ie = s.ie := rfl
@[simp] theorem State.raise_fault (s : State) (f : FaultCode) :
    (s.raise f).fault = if s.fault = 0 then f.code else s.fault := rfl
@[simp] theorem State.raise_hstate (s : State) (f : FaultCode) : (s.raise f).hstate = s.hstate := rfl
@[simp] theorem State.raise_resp (s : State) (f : FaultCode) : (s.raise f).resp = respFault f := rfl
@[simp] theorem State.raise_uart (s : State) (f : FaultCode) : (s.raise f).uart = s.uart := rfl
@[simp] theorem State.raise_twi (s : State) (f : FaultCode) : (s.raise f).twi = s.twi := rfl

/-! `State.scheduleWord` -/

@[simp] theorem State.scheduleWord_cfg (s : State) (w : Word) : (s.scheduleWord w).cfg = s.cfg := rfl
@[simp] theorem State.scheduleWord_sched (s : State) (w : Word) :
    (s.scheduleWord w).sched = .word (issuer w) w :: s.sched := rfl
@[simp] theorem State.scheduleWord_ie (s : State) (w : Word) : (s.scheduleWord w).ie = s.ie := rfl
@[simp] theorem State.scheduleWord_fault (s : State) (w : Word) : (s.scheduleWord w).fault = s.fault := rfl
@[simp] theorem State.scheduleWord_hstate (s : State) (w : Word) : (s.scheduleWord w).hstate = s.hstate := rfl
@[simp] theorem State.scheduleWord_resp (s : State) (w : Word) : (s.scheduleWord w).resp = s.resp := rfl
@[simp] theorem State.scheduleWord_uart (s : State) (w : Word) : (s.scheduleWord w).uart = s.uart := rfl
@[simp] theorem State.scheduleWord_twi (s : State) (w : Word) : (s.scheduleWord w).twi = s.twi := rfl

/-! `Uart.disableRx` -/

@[simp] theorem Uart.disableRx_rxb (u : Uart) : (u.disableRx).rxb = u.rxb := rfl
@[simp] theorem Uart.disableRx_txb (u : Uart) : (u.disableRx).txb = u.txb := rfl
@[simp] theorem Uart.disableRx_begun (u : Uart) : (u.disableRx).begun = u.begun := rfl
@[simp] theorem Uart.disableRx_transmitting (u : Uart) : (u.disableRx).transmitting = u.transmitting := rfl
@[simp] theorem Uart.disableRx_frame (u : Uart) : (u.disableRx).frame = u.frame := rfl
@[simp] theorem Uart.disableRx_timing (u : Uart) : (u.disableRx).timing = u.timing := rfl
@[simp] theorem Uart.disableRx_u2x (u : Uart) : (u.disableRx).u2x = u.u2x := rfl
@[simp] theorem Uart.disableRx_rxen (u : Uart) : (u.disableRx).rxen = false := rfl
@[simp] theorem Uart.disableRx_txen (u : Uart) : (u.disableRx).txen = u.txen := rfl
@[simp] theorem Uart.disableRx_rxcie (u : Uart) : (u.disableRx).rxcie = u.rxcie := rfl
@[simp] theorem Uart.disableRx_dreie (u : Uart) : (u.disableRx).dreie = u.dreie := rfl
@[simp] theorem Uart.disableRx_dr (u : Uart) : (u.disableRx).dr = false := rfl
@[simp] theorem Uart.disableRx_udrRx (u : Uart) : (u.disableRx).udrRx = u.udrRx := rfl
@[simp] theorem Uart.disableRx_rxSpur (u : Uart) : (u.disableRx).rxSpur = false := rfl
@[simp] theorem Uart.disableRx_txhold (u : Uart) : (u.disableRx).txhold = u.txhold := rfl
@[simp] theorem Uart.disableRx_txshift (u : Uart) : (u.disableRx).txshift = u.txshift := rfl
@[simp] theorem Uart.disableRx_txc (u : Uart) : (u.disableRx).txc = u.txc := rfl
@[simp] theorem Uart.disableRx_rtsDriven (u : Uart) : (u.disableRx).rtsDriven = u.rtsDriven := rfl
@[simp] theorem Uart.disableRx_rtsAsserted (u : Uart) : (u.disableRx).rtsAsserted = u.rtsAsserted := rfl
@[simp] theorem Uart.disableRx_ctsIn (u : Uart) : (u.disableRx).ctsIn = u.ctsIn := rfl
@[simp] theorem Uart.disableRx_ctsIe (u : Uart) : (u.disableRx).ctsIe = u.ctsIe := rfl
@[simp] theorem Uart.disableRx_ctsEdge (u : Uart) : (u.disableRx).ctsEdge = u.ctsEdge := rfl
@[simp] theorem Uart.disableRx_uartOut (u : Uart) : (u.disableRx).uartOut = u.uartOut := rfl
@[simp] theorem Uart.disableRx_uartIn (u : Uart) : (u.disableRx).uartIn = u.uartIn := rfl

/-! `Uart.close` -/

@[simp] theorem Uart.close_rxb (u : Uart) : (u.close).rxb = { u.rxb with tail := u.rxb.head } := rfl
@[simp] theorem Uart.close_txb (u : Uart) : (u.close).txb = { u.txb with tail := u.txb.head } := rfl
@[simp] theorem Uart.close_begun (u : Uart) : (u.close).begun = false := rfl
@[simp] theorem Uart.close_transmitting (u : Uart) : (u.close).transmitting = false := rfl
@[simp] theorem Uart.close_frame (u : Uart) : (u.close).frame = u.frame := rfl
@[simp] theorem Uart.close_timing (u : Uart) : (u.close).timing = u.timing := rfl
@[simp] theorem Uart.close_u2x (u : Uart) : (u.close).u2x = u.u2x := rfl
@[simp] theorem Uart.close_rxen (u : Uart) : (u.close).rxen = false := rfl
@[simp] theorem Uart.close_txen (u : Uart) : (u.close).txen = false := rfl
@[simp] theorem Uart.close_rxcie (u : Uart) : (u.close).rxcie = false := rfl
@[simp] theorem Uart.close_dreie (u : Uart) : (u.close).dreie = false := rfl
@[simp] theorem Uart.close_dr (u : Uart) : (u.close).dr = false := rfl
@[simp] theorem Uart.close_udrRx (u : Uart) : (u.close).udrRx = u.udrRx := rfl
@[simp] theorem Uart.close_rxSpur (u : Uart) : (u.close).rxSpur = false := rfl
@[simp] theorem Uart.close_txhold (u : Uart) : (u.close).txhold = u.txhold := rfl
@[simp] theorem Uart.close_txshift (u : Uart) : (u.close).txshift = u.txshift := rfl
@[simp] theorem Uart.close_txc (u : Uart) : (u.close).txc = u.txc := rfl
@[simp] theorem Uart.close_rtsDriven (u : Uart) : (u.close).rtsDriven = u.rtsDriven := rfl
@[simp] theorem Uart.close_rtsAsserted (u : Uart) : (u.close).rtsAsserted = u.rtsAsserted := rfl
@[simp] theorem Uart.close_ctsIn (u : Uart) : (u.close).ctsIn = u.ctsIn := rfl
@[simp] theorem Uart.close_ctsIe (u : Uart) : (u.close).ctsIe = false := rfl
@[simp] theorem Uart.close_ctsEdge (u : Uart) : (u.close).ctsEdge = u.ctsEdge := rfl
@[simp] theorem Uart.close_uartOut (u : Uart) : (u.close).uartOut = u.uartOut := rfl
@[simp] theorem Uart.close_uartIn (u : Uart) : (u.close).uartIn = u.uartIn := rfl

/-! `Uart.begin` -/

@[simp] theorem Uart.begin_rxb (p : Params) (fr : BitVec 4) (baud : Nat) (tv : BitVec 16) (u : Uart) :
    (u.begin p fr baud tv).rxb = { u.rxb with head := 0, tail := 0 } := rfl
@[simp] theorem Uart.begin_txb (p : Params) (fr : BitVec 4) (baud : Nat) (tv : BitVec 16) (u : Uart) :
    (u.begin p fr baud tv).txb = { u.txb with head := 0, tail := 0 } := rfl
@[simp] theorem Uart.begin_begun (p : Params) (fr : BitVec 4) (baud : Nat) (tv : BitVec 16) (u : Uart) :
    (u.begin p fr baud tv).begun = true := rfl
@[simp] theorem Uart.begin_transmitting (p : Params) (fr : BitVec 4) (baud : Nat) (tv : BitVec 16) (u : Uart) :
    (u.begin p fr baud tv).transmitting = false := rfl
@[simp] theorem Uart.begin_frame (p : Params) (fr : BitVec 4) (baud : Nat) (tv : BitVec 16) (u : Uart) :
    (u.begin p fr baud tv).frame = fr := rfl
@[simp] theorem Uart.begin_timing (p : Params) (fr : BitVec 4) (baud : Nat) (tv : BitVec 16) (u : Uart) :
    (u.begin p fr baud tv).timing = tv := rfl
@[simp] theorem Uart.begin_u2x (p : Params) (fr : BitVec 4) (baud : Nat) (tv : BitVec 16) (u : Uart) :
    (u.begin p fr baud tv).u2x = doubleSpeed baud := rfl
@[simp] theorem Uart.begin_rxen (p : Params) (fr : BitVec 4) (baud : Nat) (tv : BitVec 16) (u : Uart) :
    (u.begin p fr baud tv).rxen = true := rfl
@[simp] theorem Uart.begin_txen (p : Params) (fr : BitVec 4) (baud : Nat) (tv : BitVec 16) (u : Uart) :
    (u.begin p fr baud tv).txen = true := rfl
@[simp] theorem Uart.begin_rxcie (p : Params) (fr : BitVec 4) (baud : Nat) (tv : BitVec 16) (u : Uart) :
    (u.begin p fr baud tv).rxcie = true := rfl
@[simp] theorem Uart.begin_dreie (p : Params) (fr : BitVec 4) (baud : Nat) (tv : BitVec 16) (u : Uart) :
    (u.begin p fr baud tv).dreie = false := rfl
@[simp] theorem Uart.begin_dr (p : Params) (fr : BitVec 4) (baud : Nat) (tv : BitVec 16) (u : Uart) :
    (u.begin p fr baud tv).dr = u.dr := rfl
@[simp] theorem Uart.begin_udrRx (p : Params) (fr : BitVec 4) (baud : Nat) (tv : BitVec 16) (u : Uart) :
    (u.begin p fr baud tv).udrRx = u.udrRx := rfl
@[simp] theorem Uart.begin_rxSpur (p : Params) (fr : BitVec 4) (baud : Nat) (tv : BitVec 16) (u : Uart) :
    (u.begin p fr baud tv).rxSpur = u.rxSpur := rfl
@[simp] theorem Uart.begin_txhold (p : Params) (fr : BitVec 4) (baud : Nat) (tv : BitVec 16) (u : Uart) :
    (u.begin p fr baud tv).txhold = u.txhold := rfl
@[simp] theorem Uart.begin_txshift (p : Params) (fr : BitVec 4) (baud : Nat) (tv : BitVec 16) (u : Uart) :
    (u.begin p fr baud tv).txshift = u.txshift := rfl
@[simp] theorem Uart.begin_txc (p : Params) (fr : BitVec 4) (baud : Nat) (tv : BitVec 16) (u : Uart) :
    (u.begin p fr baud tv).txc = u.txc := rfl
@[simp] theorem Uart.begin_rtsDriven (p : Params) (fr : BitVec 4) (baud : Nat) (tv : BitVec 16) (u : Uart) :
    (u.begin p fr baud tv).rtsDriven = if p.rtsBound then true else u.rtsDriven := rfl
@[simp] theorem Uart.begin_rtsAsserted (p : Params) (fr : BitVec 4) (baud : Nat) (tv : BitVec 16) (u : Uart) :
    (u.begin p fr baud tv).rtsAsserted = if p.rtsBound then false else u.rtsAsserted := rfl
@[simp] theorem Uart.begin_ctsIn (p : Params) (fr : BitVec 4) (baud : Nat) (tv : BitVec 16) (u : Uart) :
    (u.begin p fr baud tv).ctsIn = u.ctsIn := rfl
@[simp] theorem Uart.begin_ctsIe (p : Params) (fr : BitVec 4) (baud : Nat) (tv : BitVec 16) (u : Uart) :
    (u.begin p fr baud tv).ctsIe = false := rfl
@[simp] theorem Uart.begin_ctsEdge (p : Params) (fr : BitVec 4) (baud : Nat) (tv : BitVec 16) (u : Uart) :
    (u.begin p fr baud tv).ctsEdge = false := rfl
@[simp] theorem Uart.begin_uartOut (p : Params) (fr : BitVec 4) (baud : Nat) (tv : BitVec 16) (u : Uart) :
    (u.begin p fr baud tv).uartOut = u.uartOut := rfl
@[simp] theorem Uart.begin_uartIn (p : Params) (fr : BitVec 4) (baud : Nat) (tv : BitVec 16) (u : Uart) :
    (u.begin p fr baud tv).uartIn = u.uartIn := rfl

/-! `Uart.shiftDone` -/

@[simp] theorem Uart.shiftDone_rxb (u : Uart) : (u.shiftDone).rxb = u.rxb := rfl
@[simp] theorem Uart.shiftDone_txb (u : Uart) : (u.shiftDone).txb = u.txb := rfl
@[simp] theorem Uart.shiftDone_begun (u : Uart) : (u.shiftDone).begun = u.begun := rfl
@[simp] theorem Uart.shiftDone_transmitting (u : Uart) : (u.shiftDone).transmitting = u.transmitting := rfl
@[simp] theorem Uart.shiftDone_frame (u : Uart) : (u.shiftDone).frame = u.frame := rfl
@[simp] theorem Uart.shiftDone_timing (u : Uart) : (u.shiftDone).timing = u.timing := rfl
@[simp] theorem Uart.shiftDone_u2x (u : Uart) : (u.shiftDone).u2x = u.u2x := rfl
@[simp] theorem Uart.shiftDone_rxen (u : Uart) : (u.shiftDone).rxen = u.rxen := rfl
@[simp] theorem Uart.shiftDone_txen (u : Uart) : (u.shiftDone).txen = u.txen := rfl
@[simp] theorem Uart.shiftDone_rxcie (u : Uart) : (u.shiftDone).rxcie = u.rxcie := rfl
@[simp] theorem Uart.shiftDone_dreie (u : Uart) : (u.shiftDone).dreie = u.dreie := rfl
@[simp] theorem Uart.shiftDone_dr (u : Uart) : (u.shiftDone).dr = u.dr := rfl
@[simp] theorem Uart.shiftDone_udrRx (u : Uart) : (u.shiftDone).udrRx = u.udrRx := rfl
@[simp] theorem Uart.shiftDone_rxSpur (u : Uart) : (u.shiftDone).rxSpur = u.rxSpur := rfl
@[simp] theorem Uart.shiftDone_txhold (u : Uart) : (u.shiftDone).txhold = none := rfl
@[simp] theorem Uart.shiftDone_txshift (u : Uart) : (u.shiftDone).txshift = u.txhold := rfl
@[simp] theorem Uart.shiftDone_txc (u : Uart) : (u.shiftDone).txc = if u.txhold = none then true else u.txc := rfl
@[simp] theorem Uart.shiftDone_rtsDriven (u : Uart) : (u.shiftDone).rtsDriven = u.rtsDriven := rfl
@[simp] theorem Uart.shiftDone_rtsAsserted (u : Uart) : (u.shiftDone).rtsAsserted = u.rtsAsserted := rfl
@[simp] theorem Uart.shiftDone_ctsIn (u : Uart) : (u.shiftDone).ctsIn = u.ctsIn := rfl
@[simp] theorem Uart.shiftDone_ctsIe (u : Uart) : (u.shiftDone).ctsIe = u.ctsIe := rfl
@[simp] theorem Uart.shiftDone_ctsEdge (u : Uart) : (u.shiftDone).ctsEdge = u.ctsEdge := rfl
@[simp] theorem Uart.shiftDone_uartOut (u : Uart) : (u.shiftDone).uartOut = u.uartOut ++ u.txshift.toList := rfl
@[simp] theorem Uart.shiftDone_uartIn (u : Uart) : (u.shiftDone).uartIn = u.uartIn := rfl

/-! `Twi.act` -/

@[simp] theorem Twi.act_begun (t : Twi) (a : BusAction) (e : Eng) : (t.act a e).begun = t.begun := rfl
@[simp] theorem Twi.act_cap (t : Twi) (a : BusAction) (e : Eng) : (t.act a e).cap = t.cap := rfl
@[simp] theorem Twi.act_sendbuf (t : Twi) (a : BusAction) (e : Eng) : (t.act a e).sendbuf = t.sendbuf := rfl
@[simp] theorem Twi.act_recvbuf (t : Twi) (a : BusAction) (e : Eng) : (t.act a e).recvbuf = t.recvbuf := rfl
@[simp] theorem Twi.act_ownAddr (t : Twi) (a : BusAction) (e : Eng) : (t.act a e).ownAddr = t.ownAddr := rfl
@[simp] theorem Twi.act_speed (t : Twi) (a : BusAction) (e : Eng) : (t.act a e).speed = t.speed := rfl
@[simp] theorem Twi.act_div (t : Twi) (a : BusAction) (e : Eng) : (t.act a e).div = t.div := rfl
@[simp] theorem Twi.act_sla (t : Twi) (a : BusAction) (e : Eng) : (t.act a e).sla = t.sla := rfl
@[simp] theorem Twi.act_srs (t : Twi) (a : BusAction) (e : Eng) : (t.act a e).srs = t.srs := rfl
@[simp] theorem Twi.act_txActive (t : Twi) (a : BusAction) (e : Eng) : (t.act a e).txActive = t.txActive := rfl
@[simp] theorem Twi.act_werr (t : Twi) (a : BusAction) (e : Eng) : (t.act a e).werr = t.werr := rfl
@[simp] theorem Twi.act_tresult (t : Twi) (a : BusAction) (e : Eng) : (t.act a e).tresult = t.tresult := rfl
@[simp] theorem Twi.act_tstate (t : Twi) (a : BusAction) (e : Eng) : (t.act a e).tstate = t.tstate := rfl
@[simp] theorem Twi.act_busIdle (t : Twi) (a : BusAction) (e : Eng) : (t.act a e).busIdle = t.busIdle := rfl
@[simp] theorem Twi.act_irqen (t : Twi) (a : BusAction) (e : Eng) : (t.act a e).irqen = t.irqen := rfl
@[simp] theorem Twi.act_wif (t : Twi) (a : BusAction) (e : Eng) : (t.act a e).wif = false := rfl
@[simp] theorem Twi.act_rif (t : Twi) (a : BusAction) (e : Eng) : (t.act a e).rif = false := rfl
@[simp] theorem Twi.act_nackf (t : Twi) (a : BusAction) (e : Eng) : (t.act a e).nackf = t.nackf := rfl
@[simp] theorem Twi.act_arbf (t : Twi) (a : BusAction) (e : Eng) : (t.act a e).arbf = t.arbf := rfl
@[simp] theorem Twi.act_berf (t : Twi) (a : BusAction) (e : Eng) : (t.act a e).berf = t.berf := rfl
@[simp] theorem Twi.act_dataIn (t : Twi) (a : BusAction) (e : Eng) : (t.act a e).dataIn = t.dataIn := rfl
@[simp] theorem Twi.act_eng (t : Twi) (a : BusAction) (e : Eng) : (t.act a e).eng = e := rfl
@[simp] theorem Twi.act_twiOut (t : Twi) (a : BusAction) (e : Eng) : (t.act a e).twiOut = t.twiOut ++ [a] := rfl
@[simp] theorem Twi.act_allocs (t : Twi) (a : BusAction) (e : Eng) : (t.act a e).allocs = t.allocs := rfl

/-! `Twi.addrStart` -/

@[simp] theorem Twi.addrStart_begun (t : Twi) (v : Byte) : (t.addrStart v).begun = t.begun := rfl
@[simp] theorem Twi.addrStart_cap (t : Twi) (v : Byte) : (t.addrStart v).cap = t.cap := rfl
@[simp] theorem Twi.addrStart_sendbuf (t : Twi) (v : Byte) : (t.addrStart v).sendbuf = t.sendbuf := rfl
@[simp] theorem Twi.addrStart_recvbuf (t : Twi) (v : Byte) : (t.addrStart v).recvbuf = t.recvbuf := rfl
@[simp] theorem Twi.addrStart_ownAddr (t : Twi) (v : Byte) : (t.addrStart v).ownAddr = t.ownAddr := rfl
@[simp] theorem Twi.addrStart_speed (t : Twi) (v : Byte) : (t.addrStart v).speed = t.speed := rfl
@[simp] theorem Twi.addrStart_div (t : Twi) (v : Byte) : (t.addrStart v).div = t.div := rfl
@[simp] theorem Twi.addrStart_sla (t : Twi) (v : Byte) : (t.addrStart v).sla = t.sla := rfl
@[simp] theorem Twi.addrStart_srs (t : Twi) (v : Byte) : (t.addrStart v).srs = t.srs := rfl
@[simp] theorem Twi.addrStart_txActive (t : Twi) (v : Byte) : (t.addrStart v).txActive = t.txActive := rfl
@[simp] theorem Twi.addrStart_werr (t : Twi) (v : Byte) : (t.addrStart v).werr = t.werr := rfl
@[simp] theorem Twi.addrStart_tresult (t : Twi) (v : Byte) : (t.addrStart v).tresult = t.tresult := rfl
@[simp] theorem Twi.addrStart_tstate (t : Twi) (v : Byte) : (t.addrStart v).tstate = t.tstate := rfl
@[simp] theorem Twi.addrStart_busIdle (t : Twi) (v : Byte) : (t.addrStart v).busIdle = false := rfl
@[simp] theorem Twi.addrStart_irqen (t : Twi) (v : Byte) : (t.addrStart v).irqen = t.irqen := rfl
@[simp] theorem Twi.addrStart_wif (t : Twi) (v : Byte) : (t.addrStart v).wif = false := rfl
@[simp] theorem Twi.addrStart_rif (t : Twi) (v : Byte) : (t.addrStart v).rif = false := rfl
@[simp] theorem Twi.addrStart_nackf (t : Twi) (v : Byte) : (t.addrStart v).nackf = t.nackf := rfl
@[simp] theorem Twi.addrStart_arbf (t : Twi) (v : Byte) : (t.addrStart v).arbf = t.arbf := rfl
@[simp] theorem Twi.addrStart_berf (t : Twi) (v : Byte) : (t.addrStart v).berf = t.berf := rfl
@[simp] theorem Twi.addrStart_dataIn (t : Twi) (v : Byte) : (t.addrStart v).dataIn = t.dataIn := rfl
@[simp] theorem Twi.addrStart_eng (t : Twi) (v : Byte) : (t.addrStart v).eng = addrEng v := rfl
@[simp] theorem Twi.addrStart_twiOut (t : Twi) (v : Byte) : (t.addrStart v).twiOut = t.twiOut ++ [.start v] := rfl
@[simp] theorem Twi.addrStart_allocs (t : Twi) (v : Byte) : (t.addrStart v).allocs = t.allocs := rfl

/-! `Twi.addrRestart` -/

@[simp] theorem Twi.addrRestart_begun (t : Twi) (v : Byte) : (t.addrRestart v).begun = t.begun := rfl
@[simp] theorem Twi.addrRestart_cap (t : Twi) (v : Byte) : (t.addrRestart v).cap = t.cap := rfl
@[simp] theorem Twi.addrRestart_sendbuf (t : Twi) (v : Byte) : (t.addrRestart v).sendbuf = t.sendbuf := rfl
@[simp] theorem Twi.addrRestart_recvbuf (t : Twi) (v : Byte) : (t.addrRestart v).recvbuf = t.recvbuf := rfl
@[simp] theorem Twi.addrRestart_ownAddr (t : Twi) (v : Byte) : (t.addrRestart v).ownAddr = t.ownAddr := rfl
@[simp] theorem Twi.addrRestart_speed (t : Twi) (v : Byte) : (t.addrRestart v).speed = t.speed := rfl
@[simp] theorem Twi.addrRestart_div (t : Twi) (v : Byte) : (t.addrRestart v).div = t.div := rfl
@[simp] theorem Twi.addrRestart_sla (t : Twi) (v : Byte) : (t.addrRestart v).sla = t.sla := rfl
@[simp] theorem Twi.addrRestart_srs (t : Twi) (v : Byte) : (t.addrRestart v).srs = t.srs := rfl
@[simp] theorem Twi.addrRestart_txActive (t : Twi) (v : Byte) : (t.addrRestart v).txActive = t.txActive := rfl
@[simp] theorem Twi.addrRestart_werr (t : Twi) (v : Byte) : (t.addrRestart v).werr = t.werr := rfl
@[simp] theorem Twi.addrRestart_tresult (t : Twi) (v : Byte) : (t.addrRestart v).tresult = t.tresult := rfl
@[simp] theorem Twi.addrRestart_tstate (t : Twi) (v : Byte) : (t.addrRestart v).tstate = t.tstate := rfl
@[simp] theorem Twi.addrRestart_busIdle (t : Twi) (v : Byte) : (t.addrRestart v).busIdle = false := rfl
@[simp] theorem Twi.addrRestart_irqen (t : Twi) (v : Byte) : (t.addrRestart v).irqen = t.irqen := rfl
@[simp] theorem Twi.addrRestart_wif (t : Twi) (v : Byte) : (t.addrRestart v).wif = false := rfl
@[simp] theorem Twi.addrRestart_rif (t : Twi) (v : Byte) : (t.addrRestart v).rif = false := rfl
@[simp] theorem Twi.addrRestart_nackf (t : Twi) (v : Byte) : (t.addrRestart v).nackf = t.nackf := rfl
@[simp] theorem Twi.addrRestart_arbf (t : Twi) (v : Byte) : (t.addrRestart v).arbf = t.arbf := rfl
@[simp] theorem Twi.addrRestart_berf (t : Twi) (v : Byte) : (t.addrRestart v).berf = t.berf := rfl
@[simp] theorem Twi.addrRestart_dataIn (t : Twi) (v : Byte) : (t.addrRestart v).dataIn = t.dataIn := rfl
@[simp] theorem Twi.addrRestart_eng (t : Twi) (v : Byte) : (t.addrRestart v).eng = addrEng v := rfl
@[simp] theorem Twi.addrRestart_twiOut (t : Twi) (v : Byte) :
    (t.addrRestart v).twiOut = t.twiOut ++ [.rstart v] := rfl
@[simp] theorem Twi.addrRestart_allocs (t : Twi) (v : Byte) : (t.addrRestart v).allocs = t.allocs := rfl

/-! `Twi.dataWrite` -/

@[simp] theorem Twi.dataWrite_begun (t : Twi) (b : Byte) : (t.dataWrite b).begun = t.begun := rfl
@[simp] theorem Twi.dataWrite_cap (t : Twi) (b : Byte) : (t.dataWrite b).cap = t.cap := rfl
@[simp] theorem Twi.dataWrite_sendbuf (t : Twi) (b : Byte) : (t.dataWrite b).sendbuf = t.sendbuf := rfl
@[simp] theorem Twi.dataWrite_recvbuf (t : Twi) (b : Byte) : (t.dataWrite b).recvbuf = t.recvbuf := rfl
@[simp] theorem Twi.dataWrite_ownAddr (t : Twi) (b : Byte) : (t.dataWrite b).ownAddr = t.ownAddr := rfl
@[simp] theorem Twi.dataWrite_speed (t : Twi) (b : Byte) : (t.dataWrite b).speed = t.speed := rfl
@[simp] theorem Twi.dataWrite_div (t : Twi) (b : Byte) : (t.dataWrite b).div = t.div := rfl
@[simp] theorem Twi.dataWrite_sla (t : Twi) (b : Byte) : (t.dataWrite b).sla = t.sla := rfl
@[simp] theorem Twi.dataWrite_srs (t : Twi) (b : Byte) : (t.dataWrite b).srs = t.srs := rfl
@[simp] theorem Twi.dataWrite_txActive (t : Twi) (b : Byte) : (t.dataWrite b).txActive = t.txActive := rfl
@[simp] theorem Twi.dataWrite_werr (t : Twi) (b : Byte) : (t.dataWrite b).werr = t.werr := rfl
@[simp] theorem Twi.dataWrite_tresult (t : Twi) (b : Byte) : (t.dataWrite b).tresult = t.tresult := rfl
@[simp] theorem Twi.dataWrite_tstate (t : Twi) (b : Byte) : (t.dataWrite b).tstate = t.tstate := rfl
@[simp] theorem Twi.dataWrite_busIdle (t : Twi) (b : Byte) : (t.dataWrite b).busIdle = t.busIdle := rfl
@[simp] theorem Twi.dataWrite_irqen (t : Twi) (b : Byte) : (t.dataWrite b).irqen = t.irqen := rfl
@[simp] theorem Twi.dataWrite_wif (t : Twi) (b : Byte) : (t.dataWrite b).wif = false := rfl
@[simp] theorem Twi.dataWrite_rif (t : Twi) (b : Byte) : (t.dataWrite b).rif = false := rfl
@[simp] theorem Twi.dataWrite_nackf (t : Twi) (b : Byte) : (t.dataWrite b).nackf = t.nackf := rfl
@[simp] theorem Twi.dataWrite_arbf (t : Twi) (b : Byte) : (t.dataWrite b).arbf = t.arbf := rfl
@[simp] theorem Twi.dataWrite_berf (t : Twi) (b : Byte) : (t.dataWrite b).berf = t.berf := rfl
@[simp] theorem Twi.dataWrite_dataIn (t : Twi) (b : Byte) : (t.dataWrite b).dataIn = t.dataIn := rfl
@[simp] theorem Twi.dataWrite_eng (t : Twi) (b : Byte) : (t.dataWrite b).eng = .dataW := rfl
@[simp] theorem Twi.dataWrite_twiOut (t : Twi) (b : Byte) : (t.dataWrite b).twiOut = t.twiOut ++ [.data b] := rfl
@[simp] theorem Twi.dataWrite_allocs (t : Twi) (b : Byte) : (t.dataWrite b).allocs = t.allocs := rfl

/-! `Twi.stop` -/

@[simp] theorem Twi.stop_begun (t : Twi) : (t.stop).begun = t.begun := rfl
@[simp] theorem Twi.stop_cap (t : Twi) : (t.stop).cap = t.cap := rfl
@[simp] theorem Twi.stop_sendbuf (t : Twi) : (t.stop).sendbuf = t.sendbuf := rfl
@[simp] theorem Twi.stop_recvbuf (t : Twi) : (t.stop).recvbuf = t.recvbuf := rfl
@[simp] theorem Twi.stop_ownAddr (t : Twi) : (t.stop).ownAddr = t.ownAddr := rfl
@[simp] theorem Twi.stop_speed (t : Twi) : (t.stop).speed = t.speed := rfl
@[simp] theorem Twi.stop_div (t : Twi) : (t.stop).div = t.div := rfl
@[simp] theorem Twi.stop_sla (t : Twi) : (t.stop).sla = t.sla := rfl
@[simp] theorem Twi.stop_srs (t : Twi) : (t.stop).srs = t.srs := rfl
@[simp] theorem Twi.stop_txActive (t : Twi) : (t.stop).txActive = t.txActive := rfl
@[simp] theorem Twi.stop_werr (t : Twi) : (t.stop).werr = t.werr := rfl
@[simp] theorem Twi.stop_tresult (t : Twi) : (t.stop).tresult = t.tresult := rfl
@[simp] theorem Twi.stop_tstate (t : Twi) : (t.stop).tstate = t.tstate := rfl
@[simp] theorem Twi.stop_busIdle (t : Twi) : (t.stop).busIdle = t.busIdle := rfl
@[simp] theorem Twi.stop_irqen (t : Twi) : (t.stop).irqen = t.irqen := rfl
@[simp] theorem Twi.stop_wif (t : Twi) : (t.stop).wif = false := rfl
@[simp] theorem Twi.stop_rif (t : Twi) : (t.stop).rif = false := rfl
@[simp] theorem Twi.stop_nackf (t : Twi) : (t.stop).nackf = t.nackf := rfl
@[simp] theorem Twi.stop_arbf (t : Twi) : (t.stop).arbf = t.arbf := rfl
@[simp] theorem Twi.stop_berf (t : Twi) : (t.stop).berf = t.berf := rfl
@[simp] theorem Twi.stop_dataIn (t : Twi) : (t.stop).dataIn = t.dataIn := rfl
@[simp] theorem Twi.stop_eng (t : Twi) : (t.stop).eng = .stop := rfl
@[simp] theorem Twi.stop_twiOut (t : Twi) : (t.stop).twiOut = t.twiOut ++ [.stop] := rfl
@[simp] theorem Twi.stop_allocs (t : Twi) : (t.stop).allocs = t.allocs := rfl

/-! `Twi.ackContinue` -/

@[simp] theorem Twi.ackContinue_begun (t : Twi) : (t.ackContinue).begun = t.begun := rfl
@[simp] theorem Twi.ackContinue_cap (t : Twi) : (t.ackContinue).cap = t.cap := rfl
@[simp] theorem Twi.ackContinue_sendbuf (t : Twi) : (t.ackContinue).sendbuf = t.sendbuf := rfl
@[simp] theorem Twi.ackContinue_recvbuf (t : Twi) : (t.ackContinue).recvbuf = t.recvbuf := rfl
@[simp] theorem Twi.ackContinue_ownAddr (t : Twi) : (t.ackContinue).ownAddr = t.ownAddr := rfl
@[simp] theorem Twi.ackContinue_speed (t : Twi) : (t.ackContinue).speed = t.speed := rfl
@[simp] theorem Twi.ackContinue_div (t : Twi) : (t.ackContinue).div = t.div := rfl
@[simp] theorem Twi.ackContinue_sla (t : Twi) : (t.ackContinue).sla = t.sla := rfl
@[simp] theorem Twi.ackContinue_srs (t : Twi) : (t.ackContinue).srs = t.srs := rfl
@[simp] theorem Twi.ackContinue_txActive (t : Twi) : (t.ackContinue).txActive = t.txActive := rfl
@[simp] theorem Twi.ackContinue_werr (t : Twi) : (t.ackContinue).werr = t.werr := rfl
@[simp] theorem Twi.ackContinue_tresult (t : Twi) : (t.ackContinue).tresult = t.tresult := rfl
@[simp] theorem Twi.ackContinue_tstate (t : Twi) : (t.ackContinue).tstate = t.tstate := rfl
@[simp] theorem Twi.ackContinue_busIdle (t : Twi) : (t.ackContinue).busIdle = t.busIdle := rfl
@[simp] theorem Twi.ackContinue_irqen (t : Twi) : (t.ackContinue).irqen = t.irqen := rfl
@[simp] theorem Twi.ackContinue_wif (t : Twi) : (t.ackContinue).wif = false := rfl
@[simp] theorem Twi.ackContinue_rif (t : Twi) : (t.ackContinue).rif = false := rfl
@[simp] theorem Twi.ackContinue_nackf (t : Twi) : (t.ackContinue).nackf = t.nackf := rfl
@[simp] theorem Twi.ackContinue_arbf (t : Twi) : (t.ackContinue).arbf = t.arbf := rfl
@[simp] theorem Twi.ackContinue_berf (t : Twi) : (t.ackContinue).berf = t.berf := rfl
@[simp] theorem Twi.ackContinue_dataIn (t : Twi) : (t.ackContinue).dataIn = t.dataIn := rfl
@[simp] theorem Twi.ackContinue_eng (t : Twi) : (t.ackContinue).eng = .recv := rfl
@[simp] theorem Twi.ackContinue_twiOut (t : Twi) : (t.ackContinue).twiOut = t.twiOut ++ [.ack] := rfl
@[simp] theorem Twi.ackContinue_allocs (t : Twi) : (t.ackContinue).allocs = t.allocs := rfl

/-! `Twi.nackStop` -/

@[simp] theorem Twi.nackStop_begun (t : Twi) : (t.nackStop).begun = t.begun := rfl
@[simp] theorem Twi.nackStop_cap (t : Twi) : (t.nackStop).cap = t.cap := rfl
@[simp] theorem Twi.nackStop_sendbuf (t : Twi) : (t.nackStop).sendbuf = t.sendbuf := rfl
@[simp] theorem Twi.nackStop_recvbuf (t : Twi) : (t.nackStop).recvbuf = t.recvbuf := rfl
@[simp] theorem Twi.nackStop_ownAddr (t : Twi) : (t.nackStop).ownAddr = t.ownAddr := rfl
@[simp] theorem Twi.nackStop_speed (t : Twi) : (t.nackStop).speed = t.speed := rfl
@[simp] theorem Twi.nackStop_div (t : Twi) : (t.nackStop).div = t.div := rfl
@[simp] theorem Twi.nackStop_sla (t : Twi) : (t.nackStop).sla = t.sla := rfl
@[simp] theorem Twi.nackStop_srs (t : Twi) : (t.nackStop).srs = t.srs := rfl
@[simp] theorem Twi.nackStop_txActive (t : Twi) : (t.nackStop).txActive = t.txActive := rfl
@[simp] theorem Twi.nackStop_werr (t : Twi) : (t.nackStop).werr = t.werr := rfl
@[simp] theorem Twi.nackStop_tresult (t : Twi) : (t.nackStop).tresult = t.tresult := rfl
@[simp] theorem Twi.nackStop_tstate (t : Twi) : (t.nackStop).tstate = t.tstate := rfl
@[simp] theorem Twi.nackStop_busIdle (t : Twi) : (t.nackStop).busIdle = t.busIdle := rfl
@[simp] theorem Twi.nackStop_irqen (t : Twi) : (t.nackStop).irqen = t.irqen := rfl
@[simp] theorem Twi.nackStop_wif (t : Twi) : (t.nackStop).wif = false := rfl
@[simp] theorem Twi.nackStop_rif (t : Twi) : (t.nackStop).rif = false := rfl
@[simp] theorem Twi.nackStop_nackf (t : Twi) : (t.nackStop).nackf = t.nackf := rfl
@[simp] theorem Twi.nackStop_arbf (t : Twi) : (t.nackStop).arbf = t.arbf := rfl
@[simp] theorem Twi.nackStop_berf (t : Twi) : (t.nackStop).berf = t.berf := rfl
@[simp] theorem Twi.nackStop_dataIn (t : Twi) : (t.nackStop).dataIn = t.dataIn := rfl
@[simp] theorem Twi.nackStop_eng (t : Twi) : (t.nackStop).eng = .stop := rfl
@[simp] theorem Twi.nackStop_twiOut (t : Twi) : (t.nackStop).twiOut = t.twiOut ++ [.nackStop] := rfl
@[simp] theorem Twi.nackStop_allocs (t : Twi) : (t.nackStop).allocs = t.allocs := rfl

/-! `Twi.finish` -/

@[simp] theorem Twi.finish_begun (t : Twi) (r : TwiResult) : (t.finish r).begun = t.begun := rfl
@[simp] theorem Twi.finish_cap (t : Twi) (r : TwiResult) : (t.finish r).cap = t.cap := rfl
@[simp] theorem Twi.finish_sendbuf (t : Twi) (r : TwiResult) : (t.finish r).sendbuf = t.sendbuf := rfl
@[simp] theorem Twi.finish_recvbuf (t : Twi) (r : TwiResult) : (t.finish r).recvbuf = t.recvbuf := rfl
@[simp] theorem Twi.finish_ownAddr (t : Twi) (r : TwiResult) : (t.finish r).ownAddr = t.ownAddr := rfl
@[simp] theorem Twi.finish_speed (t : Twi) (r : TwiResult) : (t.finish r).speed = t.speed := rfl
@[simp] theorem Twi.finish_div (t : Twi) (r : TwiResult) : (t.finish r).div = t.div := rfl
@[simp] theorem Twi.finish_sla (t : Twi) (r : TwiResult) : (t.finish r).sla = t.sla := rfl
@[simp] theorem Twi.finish_srs (t : Twi) (r : TwiResult) : (t.finish r).srs = t.srs := rfl
@[simp] theorem Twi.finish_txActive (t : Twi) (r : TwiResult) : (t.finish r).txActive = t.txActive := rfl
@[simp] theorem Twi.finish_werr (t : Twi) (r : TwiResult) : (t.finish r).werr = t.werr := rfl
@[simp] theorem Twi.finish_tresult (t : Twi) (r : TwiResult) : (t.finish r).tresult = r.code := rfl
@[simp] theorem Twi.finish_tstate (t : Twi) (r : TwiResult) : (t.finish r).tstate = .idle := rfl
@[simp] theorem Twi.finish_busIdle (t : Twi) (r : TwiResult) : (t.finish r).busIdle = t.busIdle := rfl
@[simp] theorem Twi.finish_irqen (t : Twi) (r : TwiResult) : (t.finish r).irqen = t.irqen := rfl
@[simp] theorem Twi.finish_wif (t : Twi) (r : TwiResult) : (t.finish r).wif = t.wif := rfl
@[simp] theorem Twi.finish_rif (t : Twi) (r : TwiResult) : (t.finish r).rif = t.rif := rfl
@[simp] theorem Twi.finish_nackf (t : Twi) (r : TwiResult) : (t.finish r).nackf = t.nackf := rfl
@[simp] theorem Twi.finish_arbf (t : Twi) (r : TwiResult) : (t.finish r).arbf = t.arbf := rfl
@[simp] theorem Twi.finish_berf (t : Twi) (r : TwiResult) : (t.finish r).berf = t.berf := rfl
@[simp] theorem Twi.finish_dataIn (t : Twi) (r : TwiResult) : (t.finish r).dataIn = t.dataIn := rfl
@[simp] theorem Twi.finish_eng (t : Twi) (r : TwiResult) : (t.finish r).eng = t.eng := rfl
@[simp] theorem Twi.finish_twiOut (t : Twi) (r : TwiResult) : (t.finish r).twiOut = t.twiOut := rfl
@[simp] theorem Twi.finish_allocs (t : Twi) (r : TwiResult) : (t.finish r).allocs = t.allocs := rfl

/-! `Twi.compose` -/

@[simp] theorem Twi.compose_begun (addr : Byte) (t : Twi) : (t.compose addr).begun = t.begun := rfl
@[simp] theorem Twi.compose_cap (addr : Byte) (t : Twi) : (t.compose addr).cap = t.cap := rfl
@[simp] theorem Twi.compose_sendbuf (addr : Byte) (t : Twi) : (t.compose addr).sendbuf = t.sendbuf.clear t.cap := rfl
@[simp] theorem Twi.compose_recvbuf (addr : Byte) (t : Twi) : (t.compose addr).recvbuf = t.recvbuf := rfl
@[simp] theorem Twi.compose_ownAddr (addr : Byte) (t : Twi) : (t.compose addr).ownAddr = t.ownAddr := rfl
@[simp] theorem Twi.compose_speed (addr : Byte) (t : Twi) : (t.compose addr).speed = t.speed := rfl
@[simp] theorem Twi.compose_div (addr : Byte) (t : Twi) : (t.compose addr).div = t.div := rfl
@[simp] theorem Twi.compose_sla (addr : Byte) (t : Twi) : (t.compose addr).sla = slaWrite addr := rfl
@[simp] theorem Twi.compose_srs (addr : Byte) (t : Twi) : (t.compose addr).srs = t.srs := rfl
@[simp] theorem Twi.compose_txActive (addr : Byte) (t : Twi) : (t.compose addr).txActive = true := rfl
@[simp] theorem Twi.compose_werr (addr : Byte) (t : Twi) : (t.compose addr).werr = 0 := rfl
@[simp] theorem Twi.compose_tresult (addr : Byte) (t : Twi) : (t.compose addr).tresult = t.tresult := rfl
@[simp] theorem Twi.compose_tstate (addr : Byte) (t : Twi) : (t.compose addr).tstate = t.tstate := rfl
@[simp] theorem Twi.compose_busIdle (addr : Byte) (t : Twi) : (t.compose addr).busIdle = t.busIdle := rfl
@[simp] theorem Twi.compose_irqen (addr : Byte) (t : Twi) : (t.compose addr).irqen = t.irqen := rfl
@[simp] theorem Twi.compose_wif (addr : Byte) (t : Twi) : (t.compose addr).wif = t.wif := rfl
@[simp] theorem Twi.compose_rif (addr : Byte) (t : Twi) : (t.compose addr).rif = t.rif := rfl
@[simp] theorem Twi.compose_nackf (addr : Byte) (t : Twi) : (t.compose addr).nackf = t.nackf := rfl
@[simp] theorem Twi.compose_arbf (addr : Byte) (t : Twi) : (t.compose addr).arbf = t.arbf := rfl
@[simp] theorem Twi.compose_berf (addr : Byte) (t : Twi) : (t.compose addr).berf = t.berf := rfl
@[simp] theorem Twi.compose_dataIn (addr : Byte) (t : Twi) : (t.compose addr).dataIn = t.dataIn := rfl
@[simp] theorem Twi.compose_eng (addr : Byte) (t : Twi) : (t.compose addr).eng = t.eng := rfl
@[simp] theorem Twi.compose_twiOut (addr : Byte) (t : Twi) : (t.compose addr).twiOut = t.twiOut := rfl
@[simp] theorem Twi.compose_allocs (addr : Byte) (t : Twi) : (t.compose addr).allocs = t.allocs := rfl

/-! `Twi.launchWrite` -/

@[simp] theorem Twi.launchWrite_begun (count : Nat) (t : Twi) : (t.launchWrite count).begun = t.begun := rfl
@[simp] theorem Twi.launchWrite_cap (count : Nat) (t : Twi) : (t.launchWrite count).cap = t.cap := rfl
@[simp] theorem Twi.launchWrite_sendbuf (count : Nat) (t : Twi) :
    (t.launchWrite count).sendbuf = t.sendbuf.flip := rfl
@[simp] theorem Twi.launchWrite_recvbuf (count : Nat) (t : Twi) :
    (t.launchWrite count).recvbuf = t.recvbuf.clear t.cap := rfl
@[simp] theorem Twi.launchWrite_ownAddr (count : Nat) (t : Twi) : (t.launchWrite count).ownAddr = t.ownAddr := rfl
@[simp] theorem Twi.launchWrite_speed (count : Nat) (t : Twi) : (t.launchWrite count).speed = t.speed := rfl
@[simp] theorem Twi.launchWrite_div (count : Nat) (t : Twi) : (t.launchWrite count).div = t.div := rfl
@[simp] theorem Twi.launchWrite_sla (count : Nat) (t : Twi) : (t.launchWrite count).sla = t.sla := rfl
@[simp] theorem Twi.launchWrite_srs (count : Nat) (t : Twi) : (t.launchWrite count).srs = count := rfl
@[simp] theorem Twi.launchWrite_txActive (count : Nat) (t : Twi) : (t.launchWrite count).txActive = false := rfl
@[simp] theorem Twi.launchWrite_werr (count : Nat) (t : Twi) : (t.launchWrite count).werr = t.werr := rfl
@[simp] theorem Twi.launchWrite_tresult (count : Nat) (t : Twi) : (t.launchWrite count).tresult = t.tresult := rfl
@[simp] theorem Twi.launchWrite_tstate (count : Nat) (t : Twi) : (t.launchWrite count).tstate = .addressPending := rfl
@[simp] theorem Twi.launchWrite_busIdle (count : Nat) (t : Twi) : (t.launchWrite count).busIdle = false := rfl
@[simp] theorem Twi.launchWrite_irqen (count : Nat) (t : Twi) : (t.launchWrite count).irqen = t.irqen := rfl
@[simp] theorem Twi.launchWrite_wif (count : Nat) (t : Twi) : (t.launchWrite count).wif = false := rfl
@[simp] theorem Twi.launchWrite_rif (count : Nat) (t : Twi) : (t.launchWrite count).rif = false := rfl
@[simp] theorem Twi.launchWrite_nackf (count : Nat) (t : Twi) : (t.launchWrite count).nackf = t.nackf := rfl
@[simp] theorem Twi.launchWrite_arbf (count : Nat) (t : Twi) : (t.launchWrite count).arbf = t.arbf := rfl
@[simp] theorem Twi.launchWrite_berf (count : Nat) (t : Twi) : (t.launchWrite count).berf = t.berf := rfl
@[simp] theorem Twi.launchWrite_dataIn (count : Nat) (t : Twi) : (t.launchWrite count).dataIn = t.dataIn := rfl
@[simp] theorem Twi.launchWrite_eng (count : Nat) (t : Twi) : (t.launchWrite count).eng = addrEng t.sla := rfl
@[simp] theorem Twi.launchWrite_twiOut (count : Nat) (t : Twi) :
    (t.launchWrite count).twiOut = t.twiOut ++ [.start t.sla] := rfl
@[simp] theorem Twi.launchWrite_allocs (count : Nat) (t : Twi) : (t.launchWrite count).allocs = t.allocs := rfl

/-! `Twi.launchRead` -/

@[simp] theorem Twi.launchRead_begun (addr : Byte) (count : Nat) (t : Twi) :
    (t.launchRead addr count).begun = t.begun := rfl
@[simp] theorem Twi.launchRead_cap (addr : Byte) (count : Nat) (t : Twi) :
    (t.launchRead addr count).cap = t.cap := rfl
@[simp] theorem Twi.launchRead_sendbuf (addr : Byte) (count : Nat) (t : Twi) :
    (t.launchRead addr count).sendbuf = t.sendbuf.clear t.cap := rfl
@[simp] theorem Twi.launchRead_recvbuf (addr : Byte) (count : Nat) (t : Twi) :
    (t.launchRead addr count).recvbuf = t.recvbuf.clear t.cap := rfl
@[simp] theorem Twi.launchRead_ownAddr (addr : Byte) (count : Nat) (t : Twi) :
    (t.launchRead addr count).ownAddr = t.ownAddr := rfl
@[simp] theorem Twi.launchRead_speed (addr : Byte) (count : Nat) (t : Twi) :
    (t.launchRead addr count).speed = t.speed := rfl
@[simp] theorem Twi.launchRead_div (addr : Byte) (count : Nat) (t : Twi) :
    (t.launchRead addr count).div = t.div := rfl
@[simp] theorem Twi.launchRead_sla (addr : Byte) (count : Nat) (t : Twi) :
    (t.launchRead addr count).sla = slaRead addr := rfl
@[simp] theorem Twi.launchRead_srs (addr : Byte) (count : Nat) (t : Twi) :
    (t.launchRead addr count).srs = count := rfl
@[simp] theorem Twi.launchRead_txActive (addr : Byte) (count : Nat) (t : Twi) :
    (t.launchRead addr count).txActive = false := rfl
@[simp] theorem Twi.launchRead_werr (addr : Byte) (count : Nat) (t : Twi) :
    (t.launchRead addr count).werr = t.werr := rfl
@[simp] theorem Twi.launchRead_tresult (addr : Byte) (count : Nat) (t : Twi) :
    (t.launchRead addr count).tresult = t.tresult := rfl
@[simp] theorem Twi.launchRead_tstate (addr : Byte) (count : Nat) (t : Twi) :
    (t.launchRead addr count).tstate = .addressPending := rfl
@[simp] theorem Twi.launchRead_busIdle (addr : Byte) (count : Nat) (t : Twi) :
    (t.launchRead addr count).busIdle = false := rfl
@[simp] theorem Twi.launchRead_irqen (addr : Byte) (count : Nat) (t : Twi) :
    (t.launchRead addr count).irqen = t.irqen := rfl
@[simp] theorem Twi.launchRead_wif (addr : Byte) (count : Nat) (t : Twi) :
    (t.launchRead addr count).wif = false := rfl
@[simp] theorem Twi.launchRead_rif (addr : Byte) (count : Nat) (t : Twi) :
    (t.launchRead addr count).rif = false := rfl
@[simp] theorem Twi.launchRead_nackf (addr : Byte) (count : Nat) (t : Twi) :
    (t.launchRead addr count).nackf = t.nackf := rfl
@[simp] theorem Twi.launchRead_arbf (addr : Byte) (count : Nat) (t : Twi) :
    (t.launchRead addr count).arbf = t.arbf := rfl
@[simp] theorem Twi.launchRead_berf (addr : Byte) (count : Nat) (t : Twi) :
    (t.launchRead addr count).berf = t.berf := rfl
@[simp] theorem Twi.launchRead_dataIn (addr : Byte) (count : Nat) (t : Twi) :
    (t.launchRead addr count).dataIn = t.dataIn := rfl
@[simp] theorem Twi.launchRead_eng (addr : Byte) (count : Nat) (t : Twi) :
    (t.launchRead addr count).eng = addrEng (slaRead addr) := rfl
@[simp] theorem Twi.launchRead_twiOut (addr : Byte) (count : Nat) (t : Twi) :
    (t.launchRead addr count).twiOut = t.twiOut ++ [.start (slaRead addr)] := rfl
@[simp] theorem Twi.launchRead_allocs (addr : Byte) (count : Nat) (t : Twi) :
    (t.launchRead addr count).allocs = t.allocs := rfl

/-! `Twi.begin` -/

@[simp] theorem Twi.begin_begun (p : Params) (own : Byte) (sp : BitVec 4) (cap : Nat) (t : Twi) :
    (t.begin p own sp cap).begun = true := rfl
@[simp] theorem Twi.begin_cap (p : Params) (own : Byte) (sp : BitVec 4) (cap : Nat) (t : Twi) :
    (t.begin p own sp cap).cap = cap := rfl
@[simp] theorem Twi.begin_sendbuf (p : Params) (own : Byte) (sp : BitVec 4) (cap : Nat) (t : Twi) :
    (t.begin p own sp cap).sendbuf = (t.sendbuf.allocate t.allocs).clear cap := rfl
@[simp] theorem Twi.begin_recvbuf (p : Params) (own : Byte) (sp : BitVec 4) (cap : Nat) (t : Twi) :
    (t.begin p own sp cap).recvbuf = (t.recvbuf.allocate (t.allocs + 1)).clear cap := rfl
@[simp] theorem Twi.begin_ownAddr (p : Params) (own : Byte) (sp : BitVec 4) (cap : Nat) (t : Twi) :
    (t.begin p own sp cap).ownAddr = own := rfl
@[simp] theorem Twi.begin_speed (p : Params) (own : Byte) (sp : BitVec 4) (cap : Nat) (t : Twi) :
    (t.begin p own sp cap).speed = sp := rfl
@[simp] theorem Twi.begin_div (p : Params) (own : Byte) (sp : BitVec 4) (cap : Nat) (t : Twi) :
    (t.begin p own sp cap).div = twiDivisor p sp := rfl
@[simp] theorem Twi.begin_sla (p : Params) (own : Byte) (sp : BitVec 4) (cap : Nat) (t : Twi) :
    (t.begin p own sp cap).sla = t.sla := rfl
@[simp] theorem Twi.begin_srs (p : Params) (own : Byte) (sp : BitVec 4) (cap : Nat) (t : Twi) :
    (t.begin p own sp cap).srs = 0 := rfl
@[simp] theorem Twi.begin_txActive (p : Params) (own : Byte) (sp : BitVec 4) (cap : Nat) (t : Twi) :
    (t.begin p own sp cap).txActive = false := rfl
@[simp] theorem Twi.begin_werr (p : Params) (own : Byte) (sp : BitVec 4) (cap : Nat) (t : Twi) :
    (t.begin p own sp cap).werr = 0 := rfl
@[simp] theorem Twi.begin_tresult (p : Params) (own : Byte) (sp : BitVec 4) (cap : Nat) (t : Twi) :
    (t.begin p own sp cap).tresult = TwiResult.none.code := rfl
@[simp] theorem Twi.begin_tstate (p : Params) (own : Byte) (sp : BitVec 4) (cap : Nat) (t : Twi) :
    (t.begin p own sp cap).tstate = .idle := rfl
@[simp] theorem Twi.begin_busIdle (p : Params) (own : Byte) (sp : BitVec 4) (cap : Nat) (t : Twi) :
    (t.begin p own sp cap).busIdle = true := rfl
@[simp] theorem Twi.begin_irqen (p : Params) (own : Byte) (sp : BitVec 4) (cap : Nat) (t : Twi) :
    (t.begin p own sp cap).irqen = true := rfl
@[simp] theorem Twi.begin_wif (p : Params) (own : Byte) (sp : BitVec 4) (cap : Nat) (t : Twi) :
    (t.begin p own sp cap).wif = false := rfl
@[simp] theorem Twi.begin_rif (p : Params) (own : Byte) (sp : BitVec 4) (cap : Nat) (t : Twi) :
    (t.begin p own sp cap).rif = false := rfl
@[simp] theorem Twi.begin_nackf (p : Params) (own : Byte) (sp : BitVec 4) (cap : Nat) (t : Twi) :
    (t.begin p own sp cap).nackf = false := rfl
@[simp] theorem Twi.begin_arbf (p : Params) (own : Byte) (sp : BitVec 4) (cap : Nat) (t : Twi) :
    (t.begin p own sp cap).arbf = false := rfl
@[simp] theorem Twi.begin_berf (p : Params) (own : Byte) (sp : BitVec 4) (cap : Nat) (t : Twi) :
    (t.begin p own sp cap).berf = false := rfl
@[simp] theorem Twi.begin_dataIn (p : Params) (own : Byte) (sp : BitVec 4) (cap : Nat) (t : Twi) :
    (t.begin p own sp cap).dataIn = t.dataIn := rfl
@[simp] theorem Twi.begin_eng (p : Params) (own : Byte) (sp : BitVec 4) (cap : Nat) (t : Twi) :
    (t.begin p own sp cap).eng = .none := rfl
@[simp] theorem Twi.begin_twiOut (p : Params) (own : Byte) (sp : BitVec 4) (cap : Nat) (t : Twi) :
    (t.begin p own sp cap).twiOut = t.twiOut := rfl
@[simp] theorem Twi.begin_allocs (p : Params) (own : Byte) (sp : BitVec 4) (cap : Nat) (t : Twi) :
    (t.begin p own sp cap).allocs = t.allocs + 2 := rfl

/-! `twiArbBranch` -/

@[simp] theorem twiArbBranch_begun (t : Twi) : (twiArbBranch t).begun = t.begun := rfl
@[simp] theorem twiArbBranch_cap (t : Twi) : (twiArbBranch t).cap = t.cap := rfl
@[simp] theorem twiArbBranch_sendbuf (t : Twi) : (twiArbBranch t).sendbuf = t.sendbuf := rfl
@[simp] theorem twiArbBranch_recvbuf (t : Twi) : (twiArbBranch t).recvbuf = t.recvbuf := rfl
@[simp] theorem twiArbBranch_ownAddr (t : Twi) : (twiArbBranch t).ownAddr = t.ownAddr := rfl
@[simp] theorem twiArbBranch_speed (t : Twi) : (twiArbBranch t).speed = t.speed := rfl
@[simp] theorem twiArbBranch_div (t : Twi) : (twiArbBranch t).div = t.div := rfl
@[simp] theorem twiArbBranch_sla (t : Twi) : (twiArbBranch t).sla = t.sla := rfl
@[simp] theorem twiArbBranch_srs (t : Twi) : (twiArbBranch t).srs = t.srs := rfl
@[simp] theorem twiArbBranch_txActive (t : Twi) : (twiArbBranch t).txActive = t.txActive := rfl
@[simp] theorem twiArbBranch_werr (t : Twi) : (twiArbBranch t).werr = t.werr := rfl
@[simp] theorem twiArbBranch_tresult (t : Twi) : (twiArbBranch t).tresult = TwiResult.arbLost.code := rfl
@[simp] theorem twiArbBranch_tstate (t : Twi) : (twiArbBranch t).tstate = .arbLost := rfl
@[simp] theorem twiArbBranch_busIdle (t : Twi) : (twiArbBranch t).busIdle = t.busIdle := rfl
@[simp] theorem twiArbBranch_irqen (t : Twi) : (twiArbBranch t).irqen = t.irqen := rfl
@[simp] theorem twiArbBranch_wif (t : Twi) : (twiArbBranch t).wif = false := rfl
@[simp] theorem twiArbBranch_rif (t : Twi) : (twiArbBranch t).rif = false := rfl
@[simp] theorem twiArbBranch_nackf (t : Twi) : (twiArbBranch t).nackf = t.nackf := rfl
@[simp] theorem twiArbBranch_arbf (t : Twi) : (twiArbBranch t).arbf = false := rfl
@[simp] theorem twiArbBranch_berf (t : Twi) : (twiArbBranch t).berf = t.berf := rfl
@[simp] theorem twiArbBranch_dataIn (t : Twi) : (twiArbBranch t).dataIn = t.dataIn := rfl
@[simp] theorem twiArbBranch_eng (t : Twi) : (twiArbBranch t).eng = t.eng := rfl
@[simp] theorem twiArbBranch_twiOut (t : Twi) : (twiArbBranch t).twiOut = t.twiOut := rfl
@[simp] theorem twiArbBranch_allocs (t : Twi) : (twiArbBranch t).allocs = t.allocs := rfl

/-! `twiBusErrBranch` -/

@[simp] theorem twiBusErrBranch_begun (t : Twi) : (twiBusErrBranch t).begun = t.begun := rfl
@[simp] theorem twiBusErrBranch_cap (t : Twi) : (twiBusErrBranch t).cap = t.cap := rfl
@[simp] theorem twiBusErrBranch_sendbuf (t : Twi) : (twiBusErrBranch t).sendbuf = t.sendbuf := rfl
@[simp] theorem twiBusErrBranch_recvbuf (t : Twi) : (twiBusErrBranch t).recvbuf = t.recvbuf := rfl
@[simp] theorem twiBusErrBranch_ownAddr (t : Twi) : (twiBusErrBranch t).ownAddr = t.ownAddr := rfl
@[simp] theorem twiBusErrBranch_speed (t : Twi) : (twiBusErrBranch t).speed = t.speed := rfl
@[simp] theorem twiBusErrBranch_div (t : Twi) : (twiBusErrBranch t).div = t.div := rfl
@[simp] theorem twiBusErrBranch_sla (t : Twi) : (twiBusErrBranch t).sla = t.sla := rfl
@[simp] theorem twiBusErrBranch_srs (t : Twi) : (twiBusErrBranch t).srs = t.srs := rfl
@[simp] theorem twiBusErrBranch_txActive (t : Twi) : (twiBusErrBranch t).txActive = t.txActive := rfl
@[simp] theorem twiBusErrBranch_werr (t : Twi) : (twiBusErrBranch t).werr = t.werr := rfl
@[simp] theorem twiBusErrBranch_tresult (t : Twi) : (twiBusErrBranch t).tresult = TwiResult.busError.code := rfl
@[simp] theorem twiBusErrBranch_tstate (t : Twi) : (twiBusErrBranch t).tstate = .busError := rfl
@[simp] theorem twiBusErrBranch_busIdle (t : Twi) : (twiBusErrBranch t).busIdle = t.busIdle := rfl
@[simp] theorem twiBusErrBranch_irqen (t : Twi) : (twiBusErrBranch t).irqen = t.irqen := rfl
@[simp] theorem twiBusErrBranch_wif (t : Twi) : (twiBusErrBranch t).wif = false := rfl
@[simp] theorem twiBusErrBranch_rif (t : Twi) : (twiBusErrBranch t).rif = false := rfl
@[simp] theorem twiBusErrBranch_nackf (t : Twi) : (twiBusErrBranch t).nackf = t.nackf := rfl
@[simp] theorem twiBusErrBranch_arbf (t : Twi) : (twiBusErrBranch t).arbf = t.arbf := rfl
@[simp] theorem twiBusErrBranch_berf (t : Twi) : (twiBusErrBranch t).berf = false := rfl
@[simp] theorem twiBusErrBranch_dataIn (t : Twi) : (twiBusErrBranch t).dataIn = t.dataIn := rfl
@[simp] theorem twiBusErrBranch_eng (t : Twi) : (twiBusErrBranch t).eng = t.eng := rfl
@[simp] theorem twiBusErrBranch_twiOut (t : Twi) : (twiBusErrBranch t).twiOut = t.twiOut := rfl
@[simp] theorem twiBusErrBranch_allocs (t : Twi) : (twiBusErrBranch t).allocs = t.allocs := rfl

end Sys2Proof.Machine
end

