-- ==== Sys2Proof/Laws/Handlers.lean ====
section
/-! SUPPORT. The interrupt handlers (42_uart_events.md R156 to R158, 44_twi_events.md R202 to R206) and
the waits (40_sys.md R118): everything each can answer. -/

namespace Sys2Proof.Machine

/-! ### UART handlers -/

/-- The channel of `rxAccept`: the data register and the spurious request are cleared, RTS may be asserted
(R156). -/
theorem rxAccept_eq (p : Params) (u : Uart) :
    rxAccept p u = (u.dr, u.udrRx,
      { u with
        rtsAsserted := if p.rtsBound && u.rxb.nearFull p.nRx rtsMargin then true else u.rtsAsserted
        dr := false, rxSpur := false }) := rfl

/-- Everything `ISR_UART_RX` can answer (R156): the ring is as before, or the byte is stored. -/
theorem isrUartRx_eq_ok {p : Params} {u u' : Uart} (h : isrUartRx p u = .ok u') :
    ∃ rb, u' = { u with
        rtsAsserted := if p.rtsBound && u.rxb.nearFull p.nRx rtsMargin then true else u.rtsAsserted
        dr := false, rxSpur := false, rxb := rb } ∧
      ((u.dr = false ∧ rb = u.rxb) ∨ (u.dr = true ∧ u.rxb.store .rxb p.nRx u.udrRx = .ok rb)) := by
  unfold isrUartRx at h
  rw [rxAccept_eq] at h
  dsimp only at h
  split at h
  · next d =>
    obtain ⟨rb, st, e⟩ := bind_eq_ok.1 h
    exact ⟨rb, (Except.ok.inj e).symm, .inr ⟨d, st⟩⟩
  · next d => exact ⟨u.rxb, (Except.ok.inj h).symm, .inl ⟨by simpa using d, rfl⟩⟩

/-- Everything `hwTxWrite` can do (R154). -/
theorem hwTxWrite_cases (u : Uart) (b : Byte) :
    (u.txen = false ∧ u.hwTxWrite b = u) ∨
      (u.txen = true ∧ u.txshift = none ∧ u.hwTxWrite b = { u with txshift := some b }) ∨
      (u.txen = true ∧ u.txshift ≠ none ∧ u.hwTxWrite b = { u with txhold := some b }) := by
  unfold Uart.hwTxWrite
  split
  · simp_all
  · split <;> simp_all

/-- Everything `ISR_UART_DRE` can answer (R157): it stops, arming the CTS edge interrupt or not, or it
moves one byte to the hardware. -/
theorem isrUartDre_eq_ok {p : Params} {u u' : Uart} (h : isrUartDre p u = .ok u') :
    ((ctsStop p u = true ∨ u.txb.empty = true) ∧
        (u' = { u with dreie := false } ∨
          (p.ctsBound = true ∧ p.ctsEdgeIrq = true ∧ u' = { u with dreie := false, ctsEdge := false, ctsIe := true }))) ∨
      (ctsStop p u = false ∧ u.txb.empty = false ∧ u.txb.tail < p.nTx ∧
        u' = { u with txb := { u.txb with tail := (u.txb.tail + 1) % p.nTx } }.hwTxWrite
          (u.txb.storage.byteAt .txb 0 u.txb.tail)) := by
  unfold isrUartDre at h
  split at h
  · next c =>
    refine .inl ⟨by simpa using c, ?_⟩
    dsimp only at h
    split at h
    · next a =>
      simp only [ctsStop, Bool.and_eq_true] at a
      exact .inr ⟨a.1.1, a.2, (Except.ok.inj h).symm⟩
    · exact .inl ((Except.ok.inj h).symm)
  · next c =>
    simp only [Bool.or_eq_true, not_or, Bool.not_eq_true] at c
    obtain ⟨r, t, e⟩ := bind_eq_ok.1 h
    rcases RingBuffer.take_eq_ok t with ⟨em, -⟩ | ⟨-, lt, rfl⟩
    · rw [c.2] at em; cases em
    · exact .inr ⟨c.1, c.2, lt, (Except.ok.inj e).symm⟩

/-- Everything `ISR_UART_CTS` can do (R158). -/
theorem isrUartCts_cases (u : Uart) :
    (u.ctsIn = true ∧ isrUartCts u = { u with ctsEdge := false, ctsIe := false }) ∨
      (u.ctsIn = false ∧ u.txb.empty = true ∧ isrUartCts u = { u with ctsEdge := false }) ∨
      (u.ctsIn = false ∧ u.txb.empty = false ∧ isrUartCts u = { u with ctsEdge := false, dreie := true }) := by
  unfold isrUartCts
  dsimp only
  split
  · simp_all
  · split <;> simp_all

/-! ### The TWI handler -/

/-- Everything the WRITE branch can answer (R205). -/
theorem twiWriteBranch_eq_ok {t t' : Twi} (h : twiWriteBranch t = .ok t') :
    (t.nackf = true ∧ t' = t.stop.finish .nack) ∨
      (t.nackf = false ∧ 0 < t.sendbuf.remaining ∧ t.sendbuf.pos < t.cap ∧
        t' = { { t with sendbuf := { t.sendbuf with pos := t.sendbuf.pos + 1 } }.dataWrite
            (t.sendbuf.data.byteAt .sendbuf t.sendbuf.draw t.sendbuf.pos) with tstate := .writingData }) ∨
      (t.nackf = false ∧ t.sendbuf.remaining = 0 ∧ 0 < t.srs ∧
        t' = { t.addrRestart (slaRepeat t.sla) with tstate := .repeatedStart }) ∨
      (t.nackf = false ∧ t.sendbuf.remaining = 0 ∧ t.srs = 0 ∧ t' = t.stop.finish .success) := by
  unfold twiWriteBranch at h
  split at h
  · next n => exact .inl ⟨n, (Except.ok.inj h).symm⟩
  · next n =>
    have n : t.nackf = false := by simpa using n
    split at h
    · next r =>
      obtain ⟨g, ge, e⟩ := bind_eq_ok.1 h
      rcases TwiBuffer.get_eq_ok ge with ⟨-, -, lt, rfl⟩ | ⟨c, -⟩
      · exact .inr (.inl ⟨n, r, lt, (Except.ok.inj e).symm⟩)
      · exact absurd (TwiBuffer.remaining_pos_iff.1 r) c
    · next r =>
      split at h
      · next z => exact .inr (.inr (.inl ⟨n, by omega, z, (Except.ok.inj h).symm⟩))
      · next z => exact .inr (.inr (.inr ⟨n, by omega, by omega, (Except.ok.inj h).symm⟩))

/-- Everything the first half of the READ branch can answer (R206). -/
theorem twiKeepByte_eq_ok {t t' : Twi} (h : twiKeepByte t = .ok t') :
    (t.srs = 0 ∧ t' = t) ∨
      (0 < t.srs ∧ ∃ r, t.recvbuf.put .recvbuf t.cap t.dataIn = .ok r ∧
        t' = { t with recvbuf := r.2, srs := t.srs - 1 }) := by
  unfold twiKeepByte at h
  split at h
  · next z =>
    obtain ⟨r, pe, e⟩ := bind_eq_ok.1 h
    exact .inr ⟨z, r, pe, (Except.ok.inj e).symm⟩
  · next z => exact .inl ⟨by omega, (Except.ok.inj h).symm⟩

/-- Everything the READ branch can answer (R206). -/
theorem twiReadBranch_eq_ok {t t' : Twi} (h : twiReadBranch t = .ok t') :
    ∃ k, twiKeepByte t = .ok k ∧ t' = twiReadNext k := by
  unfold twiReadBranch at h
  obtain ⟨k, ke, e⟩ := bind_eq_ok.1 h
  exact ⟨k, ke, (Except.ok.inj e).symm⟩

/-- Everything `ISR_TWI` can answer (R202): the first branch whose flag is set. -/
theorem isrTwi_eq_ok {t t' : Twi} (h : isrTwi t = .ok t') :
    (t.arbf = true ∧ t' = twiArbBranch t) ∨
      (t.arbf = false ∧ t.berf = true ∧ t' = twiBusErrBranch t) ∨
      (t.arbf = false ∧ t.berf = false ∧ t.wif = true ∧ twiWriteBranch t = .ok t') ∨
      (t.arbf = false ∧ t.berf = false ∧ t.wif = false ∧ t.rif = true ∧ twiReadBranch t = .ok t') ∨
      (t.anyFlag = false ∧ t' = t) := by
  unfold isrTwi at h
  split at h
  · next a => exact .inl ⟨a, (Except.ok.inj h).symm⟩
  · next a =>
    split at h
    · next b => exact .inr (.inl ⟨by simpa using a, b, (Except.ok.inj h).symm⟩)
    · next b =>
      split at h
      · next w => exact .inr (.inr (.inl ⟨by simpa using a, by simpa using b, w, h⟩))
      · next w =>
        split at h
        · next r => exact .inr (.inr (.inr (.inl ⟨by simpa using a, by simpa using b, by simpa using w, r, h⟩)))
        · next r =>
          refine .inr (.inr (.inr (.inr ⟨?_, (Except.ok.inj h).symm⟩)))
          simp [Twi.anyFlag, a, b, w, r]

/-! ### The whole state -/

/-- A handler run changes the channel alone, or the controller alone (R231). -/
theorem runHandler_eq_ok {src : IrqSource} {s s' : State} (h : runHandler src s = .ok s') :
    (∃ u, s' = s.setUart u ∧
        ((src = .uartRx ∧ isrUartRx s.cfg s.uart = .ok u) ∨ (src = .uartDre ∧ isrUartDre s.cfg s.uart = .ok u) ∨
          (src = .uartCts ∧ u = isrUartCts s.uart))) ∨
      (∃ t, s' = s.setTwi t ∧ src = .twi ∧ isrTwi s.twi = .ok t) := by
  cases src with
  | uartRx =>
    obtain ⟨u, e, o⟩ := bind_eq_ok.1 h
    exact .inl ⟨u, (Except.ok.inj o).symm, .inl ⟨rfl, e⟩⟩
  | uartDre =>
    obtain ⟨u, e, o⟩ := bind_eq_ok.1 h
    exact .inl ⟨u, (Except.ok.inj o).symm, .inr (.inl ⟨rfl, e⟩)⟩
  | uartCts => exact .inl ⟨_, (Except.ok.inj h).symm, .inr (.inr ⟨rfl, rfl⟩)⟩
  | twi =>
    obtain ⟨t, e, o⟩ := bind_eq_ok.1 h
    exact .inr ⟨t, (Except.ok.inj o).symm, rfl, e⟩

/-- The UART replay is a run of `ISR_UART_DRE`, or nothing (R120). -/
theorem replayDre_eq_ok {s s' : State} (h : replayDre s = .ok s') :
    s' = s ∨ ∃ u, isrUartDre s.cfg s.uart = .ok u ∧ s' = s.setUart u := by
  unfold replayDre at h
  split at h
  · rcases runHandler_eq_ok h with ⟨u, e, ⟨c, -⟩ | ⟨-, r⟩ | ⟨c, -⟩⟩ | ⟨t, -, c, -⟩
    · cases c
    · exact .inr ⟨u, r, e⟩
    · cases c
    · cases c
  · exact .inl ((Except.ok.inj h).symm)

/-- The retry of a TWI wait is a run of `ISR_TWI`, or nothing (R119, R120). -/
theorem twiRetry_eq_ok {e : Bool} {s s' : State} (h : twiRetry e s = .ok s') :
    s' = s ∨ ∃ t, isrTwi s.twi = .ok t ∧ s' = s.setTwi t := by
  unfold twiRetry at h
  split at h
  · exact .inl ((Except.ok.inj h).symm)
  · unfold replayTwi at h
    split at h
    · rcases runHandler_eq_ok h with ⟨u, -, ⟨c, -⟩ | ⟨c, -⟩ | ⟨c, -⟩⟩ | ⟨t, o, -, r⟩
      · cases c
      · cases c
      · cases c
      · exact .inr ⟨t, r, o⟩
    · exact .inl ((Except.ok.inj h).symm)

/-! ### Waits -/

/-- Everything the issue step of a wait can answer (R118). -/
theorem Waiting.issue_eq_ok {w : Waiting} {cmd : Instr} {s s' : State} (h : w.issue cmd s = .ok s') :
    (w.ready s.ie s = true ∧ w.post s = .ok s') ∨
      (w.ready s.ie s = false ∧ ∃ t, w.retry s.ie s = .ok t ∧ s' = t.setHost (.wait w.kind s.ie cmd)) := by
  unfold Waiting.issue at h
  split at h
  · next r => exact .inl ⟨r, h⟩
  · next r =>
    obtain ⟨t, e, o⟩ := bind_eq_ok.1 h
    exact .inr ⟨by simpa using r, t, e, (Except.ok.inj o).symm⟩

/-- Everything the poll step of a wait can answer (R118, R121). -/
theorem Waiting.poll_eq_ok {w : Waiting} {e : Bool} {s s' : State} (h : w.poll e s = .ok s') :
    (w.ready e s = true ∧ ∃ t, w.post s = .ok t ∧ s' = t.setHost .idle) ∨
      (w.ready e s = false ∧ w.retry e s = .ok s') := by
  unfold Waiting.poll at h
  split at h
  · next r =>
    obtain ⟨t, p, o⟩ := bind_eq_ok.1 h
    exact .inl ⟨r, t, p, (Except.ok.inj o).symm⟩
  · next r => exact .inr ⟨by simpa using r, h⟩

end Sys2Proof.Machine
end

