-- ==== Sys2Proof/Laws/Steps.lean ====
section
/-! SUPPORT. Moves and steps (60_exceptions.md R229): everything a move can answer, and when. -/

namespace Sys2Proof.Machine

theorem decode_origin {o : Origin} {w : Word} {i : Instr} (h : decode o w = .ok i) : i.origin = o := by
  unfold decode at h
  split at h
  · cases h
  · split at h
    · next e => cases h; exact e
    · cases h

@[simp] theorem takeMove_word (o : Origin) (w : Word) (s : State) : takeMove (.word o w) s = takeWord o w s := rfl
@[simp] theorem takeMove_poll (s : State) : takeMove .poll s = pollHost s := rfl
@[simp] theorem takeMove_dispatch (src : IrqSource) (s : State) : takeMove (.dispatch src) s = dispatch src s := rfl

/-- A word that decodes runs its instruction, whoever issues it (R99, R117). -/
theorem takeWord_of_decode {o : Origin} {w : Word} {i : Instr} (h : decode o w = .ok i) (s : State) :
    takeWord o w s = exec i s := by
  cases o <;> simp [takeWord, issueHost, takeStimulus, h]

/-- Every host command is a body in the frame of R117. -/
theorem exec_of_host {i : Instr} (h : i.origin = .host) : ∃ body, ∀ s, exec i s = hostCommand body s := by
  cases i <;> first | exact ⟨_, fun _ => rfl⟩ | cases h

/-- Every stimulus is an enabling condition and a next state (R102). -/
theorem exec_of_stimulus {i : Instr} (h : i.origin ≠ .host) (s : State) :
    ∃ enabled t, exec i s = stimulus enabled t := by
  cases i <;> try exact (h rfl).elim
  all_goals
    simp only [exec, execEvRxByte, execEvRxSpurious, execEvTxShiftDone, execEvCts, execEvTwiAck, execEvTwiNack,
      execEvTwiRxbyte, execEvTwiArblost, execEvTwiBuserr, execEvTwiBusIdle]
    exact ⟨_, _, rfl⟩

/-- A scheduled move is the step (R229). -/
theorem step_of_sched {s : State} {m : Move} {rest : List Move} (h : s.sched = m :: rest) :
    step s = takeMove m { s with sched := rest } := by
  unfold step nextMove; rw [h]

/-- With nothing scheduled the block keeps its state (log 1). -/
theorem step_of_no_sched {s : State} (h : s.sched = []) : step s = .next s := by
  unfold step nextMove; rw [h]

/-- Everything a poll can answer with a next state (R118). -/
theorem pollHost_eq_next {s t : State} (h : pollHost s = .next t) :
    ∃ kind e cmd w, s.hstate = .wait kind e cmd ∧ waitingOf kind cmd = some w ∧ w.poll e s = .ok t := by
  unfold pollHost at h
  split at h
  · cases h
  · next kind e cmd hs =>
    split at h
    · next w hw => exact ⟨kind, e, cmd, w, hs, hw, by simpa using h⟩
    · cases h

/-- Everything a dispatch can answer with a next state (R228). -/
theorem dispatch_eq_next {src : IrqSource} {s t : State} (h : dispatch src s = .next t) :
    s.ie = true ∧ s.pending src = true ∧ runHandler src s = .ok t := by
  unfold dispatch at h
  split at h
  · next e =>
    simp only [State.dispatchEnabled, Bool.and_eq_true] at e
    exact ⟨e.1, e.2, by simpa using h⟩
  · cases h

/-- Everything a move can answer with a next state: an instruction's meaning, a fault response to an
illegal host word, a poll, or a handler run. -/
theorem takeMove_eq_next {m : Move} {s t : State} (h : takeMove m s = .next t) :
    (∃ o w i, m = .word o w ∧ decode o w = .ok i ∧ exec i s = .next t) ∨
      (∃ w e, m = .word .host w ∧ decode .host w = .error e ∧ s.hstate = .idle ∧ t = s.raise .illegalCommand) ∨
      (m = .poll ∧ pollHost s = .next t) ∨
      (∃ src, m = .dispatch src ∧ dispatch src s = .next t) := by
  cases m with
  | poll => exact .inr (.inr (.inl ⟨rfl, h⟩))
  | dispatch src => exact .inr (.inr (.inr ⟨src, rfl, h⟩))
  | word o w =>
    cases d : decode o w with
    | ok i =>
      refine .inl ⟨o, w, i, rfl, d, ?_⟩
      rwa [takeMove_word, takeWord_of_decode d] at h
    | error e =>
      cases o with
      | host =>
        simp only [takeMove_word, takeWord, issueHost, d, hostCommand_eq_next] at h
        exact .inr (.inl ⟨w, e, rfl, d, h.1, (Except.ok.inj h.2).symm⟩)
      | line => simp [takeWord, takeStimulus, d] at h
      | bus => simp [takeWord, takeStimulus, d] at h

/-- The wait that `HSTATE` names is that of its command (R24): the six cases. -/
theorem waitingOf_eq_some {kind : WaitKind} {cmd : Instr} {w : Waiting} (h : waitingOf kind cmd = some w) :
    (∃ data, kind = .uWrite ∧ cmd = .uartWrite data ∧ w = uartWriteWaiting data) ∨
      (kind = .uFlush ∧ cmd = .uartFlush ∧ w = uartFlushWaiting) ∨
      (kind = .uEnd ∧ cmd = .uartEnd ∧ w = uartEndWaiting) ∨
      (∃ addr, kind = .tBeginTx ∧ cmd = .twiBeginTx addr ∧ w = twiBeginTxWaiting addr) ∨
      (∃ addr count, kind = .tRequest ∧ cmd = .twiRequest addr count ∧ w = twiRequestWaiting addr count) ∨
      (kind = .tAvailable ∧ cmd = .twiAvailable ∧ w = twiAvailableWaiting) := by
  unfold waitingOf at h
  split at h <;> simp_all [eq_comm]

end Sys2Proof.Machine
end

