-- ==== Sys2Proof/Laws/Commands.lean ====
section
/-! SUPPORT. Everything each instruction can answer with a next state, in the terms of the shared
operations: one lemma per instruction, its guards included. -/

namespace Sys2Proof.Machine

variable {s t : State}

/-! ### `SYS` -/

theorem execSysCli_next (h : exec .sysCli s = .next t) :
    s.hstate = .idle ∧ t = { s with ie := false }.respond 0 := by
  simp only [exec, execSysCli, hostCommand_eq_next] at h
  exact ⟨h.1, (Except.ok.inj h.2).symm⟩

theorem execSysSei_next (h : exec .sysSei s = .next t) :
    s.hstate = .idle ∧ t = { s with ie := true }.respond 0 := by
  simp only [exec, execSysSei, hostCommand_eq_next] at h
  exact ⟨h.1, (Except.ok.inj h.2).symm⟩

/-! ### `UART` -/

theorem execUartBegin_next {frame : BitVec 4} {baud : Nat} (h : exec (.uartBegin frame baud) s = .next t) :
    s.hstate = .idle ∧ (t = s.respond (respStatus .unsupportedBaud) ∨
      ∃ v, baudResolve s.cfg baud (doubleSpeed baud) = some v ∧
        t = (s.setUart (s.uart.begin s.cfg frame baud v)).respond (respStatus .ok)) := by
  simp only [exec, execUartBegin, hostCommand_eq_next] at h
  obtain ⟨hi, b⟩ := h
  refine ⟨hi, ?_⟩
  split at b
  · exact .inl (Except.ok.inj b).symm
  · next v e => exact .inr ⟨v, e, (Except.ok.inj b).symm⟩

theorem execUartEnd_next (h : exec .uartEnd s = .next t) :
    s.hstate = .idle ∧ (t = (s.setUart s.uart.close).respond 0 ∨
      (s.ie = true ∧ s.uart.txb.empty = false ∧ t = s.setHost (.wait .uEnd s.ie .uartEnd))) := by
  simp only [exec, execUartEnd, hostCommand_eq_next] at h
  obtain ⟨hi, b⟩ := h
  refine ⟨hi, ?_⟩
  rcases Waiting.issue_eq_ok b with ⟨-, p⟩ | ⟨r, t', q, rfl⟩
  · exact .inl (Except.ok.inj p).symm
  · obtain rfl := Except.ok.inj q
    simp only [uartEndWaiting, Bool.or_eq_false_iff, Bool.not_eq_false'] at r
    exact .inr ⟨r.1, r.2, rfl⟩

theorem execUartAvailable_next (h : exec .uartAvailable s = .next t) :
    s.hstate = .idle ∧ t = s.respond (respCount (s.uart.rxb.occ s.cfg.nRx)) := by
  simp only [exec, execUartAvailable, hostCommand_eq_next] at h
  exact ⟨h.1, (Except.ok.inj h.2).symm⟩

theorem execUartPeek_next (h : exec .uartPeek s = .next t) :
    s.hstate = .idle ∧ ∃ b, s.uart.rxb.front .rxb s.cfg.nRx = .ok b ∧ t = s.respond (respOption b) := by
  simp only [exec, execUartPeek, hostCommand_eq_next] at h
  obtain ⟨hi, b⟩ := h
  obtain ⟨x, f, o⟩ := bind_eq_ok.1 b
  exact ⟨hi, x, f, (Except.ok.inj o).symm⟩

theorem execUartRead_next (h : exec .uartRead s = .next t) :
    s.hstate = .idle ∧ ((s.uart.rxb.empty = true ∧ t = s.respond respNoByte) ∨
      (s.uart.rxb.empty = false ∧ ∃ b rb, s.uart.rxb.take .rxb s.cfg.nRx = .ok (b, rb) ∧
        t = (s.setUart { s.uart with rxb := rb, rtsAsserted := rtsAfterRead s.cfg s.uart }).respond
          (respOption b))) := by
  simp only [exec, execUartRead, hostCommand_eq_next] at h
  obtain ⟨hi, b⟩ := h
  refine ⟨hi, ?_⟩
  split at b
  · next e => exact .inl ⟨e, (Except.ok.inj b).symm⟩
  · next e =>
    obtain ⟨⟨x, rb⟩, k, o⟩ := bind_eq_ok.1 b
    exact .inr ⟨by simpa using e, x, rb, k, (Except.ok.inj o).symm⟩

/-- The post-part of `UART_WRITE` (R132). -/
theorem uartWritePost_eq_ok {data : Byte} (h : uartWritePost data s = .ok t) :
    ∃ rb, s.uart.txb.store .txb s.cfg.nTx data = .ok rb ∧
      t = (s.setUart { s.uart with
        txb := rb, transmitting := true, rxcie := true, dreie := true, txc := false }).respond 1 := by
  unfold uartWritePost at h
  obtain ⟨rb, k, o⟩ := bind_eq_ok.1 h
  exact ⟨rb, k, (Except.ok.inj o).symm⟩

/-- The retry of `UART_WRITE` (R119, R120). -/
theorem uartWriteRetry_eq_ok {data : Byte} {e : Bool} (h : (uartWriteWaiting data).retry e s = .ok t) :
    (e = true ∧ t = s.setUart { s.uart with dreie := true }) ∨ (e = false ∧ replayDre s = .ok t) := by
  simp only [uartWriteWaiting] at h
  split at h
  · next c => exact .inl ⟨c, (Except.ok.inj h).symm⟩
  · next c => exact .inr ⟨by simpa using c, h⟩

theorem execUartWrite_next {data : Byte} (h : exec (.uartWrite data) s = .next t) :
    s.hstate = .idle ∧ ((s.uart.begun = false ∧ t = s.raise .notBegun) ∨
      (s.uart.begun = true ∧ s.uart.txb.full s.cfg.nTx = false ∧ uartWritePost data s = .ok t) ∨
      (s.uart.begun = true ∧ s.uart.txb.full s.cfg.nTx = true ∧
        ∃ t', (uartWriteWaiting data).retry s.ie s = .ok t' ∧
          t = t'.setHost (.wait .uWrite s.ie (.uartWrite data)))) := by
  simp only [exec, execUartWrite, hostCommand_eq_next] at h
  obtain ⟨hi, b⟩ := h
  refine ⟨hi, ?_⟩
  split at b
  · next e =>
    rcases Waiting.issue_eq_ok b with ⟨r, p⟩ | ⟨r, t', q, rfl⟩
    · exact .inr (.inl ⟨e, by simpa [uartWriteWaiting] using r, p⟩)
    · exact .inr (.inr ⟨e, by simpa [uartWriteWaiting] using r, t', q, rfl⟩)
  · next e => exact .inl ⟨by simpa using e, (Except.ok.inj b).symm⟩

/-- The retry of `UART_FLUSH` (R119, R120). -/
theorem uartFlushRetry_eq_ok {e : Bool} (h : uartFlushWaiting.retry e s = .ok t) :
    (e = true ∧ t = s) ∨ (e = false ∧ replayDre s = .ok t) := by
  simp only [uartFlushWaiting] at h
  split at h
  · next c => exact .inl ⟨c, (Except.ok.inj h).symm⟩
  · next c => exact .inr ⟨by simpa using c, h⟩

theorem execUartFlush_next (h : exec .uartFlush s = .next t) :
    s.hstate = .idle ∧ (t = (s.setUart { s.uart with transmitting := false }).respond 0 ∨
      (s.uart.transmitting = true ∧ s.uart.txc = false ∧ ∃ t', uartFlushWaiting.retry s.ie s = .ok t' ∧
        t = t'.setHost (.wait .uFlush s.ie .uartFlush))) := by
  simp only [exec, execUartFlush, hostCommand_eq_next] at h
  obtain ⟨hi, b⟩ := h
  refine ⟨hi, ?_⟩
  rcases Waiting.issue_eq_ok b with ⟨-, p⟩ | ⟨r, t', q, rfl⟩
  · exact .inl (Except.ok.inj p).symm
  · simp only [uartFlushWaiting, Bool.not_eq_false', Bool.and_eq_true, Bool.not_eq_true'] at r
    exact .inr ⟨r.1, r.2, t', q, rfl⟩

/-! ### `TWI` -/

theorem execTwiBegin_next {own : Byte} {speed : BitVec 4} {cap : Nat}
    (h : exec (.twiBegin own speed cap) s = .next t) :
    s.hstate = .idle ∧ (t = s.raise .twiBusy ∨
      (∃ st, (st = .invalidSpeed ∨ st = .invalidCapacity ∨ st = .bufferAllocationFailure) ∧
        t = s.respond (respStatus st)) ∨
      ((s.twi.begun = false ∨ s.twi.busIdle = true) ∧ validSpeed speed = true ∧ 0 < cap ∧ cap ≤ s.cfg.twiBufMax ∧
        t = (s.setTwi (s.twi.begin s.cfg own speed cap)).respond (respStatus .ok))) := by
  simp only [exec, execTwiBegin, hostCommand_eq_next] at h
  obtain ⟨hi, b⟩ := h
  refine ⟨hi, ?_⟩
  split at b
  · exact .inl (Except.ok.inj b).symm
  split at b
  · exact .inr (.inl ⟨_, .inl rfl, (Except.ok.inj b).symm⟩)
  split at b
  · exact .inr (.inl ⟨_, .inr (.inl rfl), (Except.ok.inj b).symm⟩)
  split at b
  · exact .inr (.inl ⟨_, .inr (.inr rfl), (Except.ok.inj b).symm⟩)
  · next h1 h2 h3 h4 =>
    refine .inr (.inr ⟨?_, by simpa using h2, by omega, by omega, (Except.ok.inj b).symm⟩)
    cases hb : s.twi.begun <;> simp_all

/-- A `TWI` command that needs `TWI_BEGIN` runs its body, or faults (R222). -/
theorem ifTwiBegun_eq_ok {body : State → Except Fault State} (h : ifTwiBegun body s = .ok t) :
    (s.twi.begun = true ∧ body s = .ok t) ∨ (s.twi.begun = false ∧ t = s.raise .notBegun) := by
  unfold ifTwiBegun at h
  split at h
  · next c => exact .inl ⟨c, h⟩
  · next c => exact .inr ⟨by simpa using c, (Except.ok.inj h).symm⟩

/-- The post-part of `TWI_BEGIN_TX` (R171). -/
theorem twiBeginTxPost_eq_ok {addr : Byte} (h : (twiBeginTxWaiting addr).post s = .ok t) :
    (validAddr addr = true ∧ t = (s.setTwi (s.twi.compose addr)).respond (respStatus .ok)) ∨
      (validAddr addr = false ∧ t = s.respond (respStatus .invalidAddress)) := by
  simp only [twiBeginTxWaiting] at h
  split at h
  · next c => exact .inl ⟨c, (Except.ok.inj h).symm⟩
  · next c => exact .inr ⟨by simpa using c, (Except.ok.inj h).symm⟩

theorem execTwiBeginTx_next {addr : Byte} (h : exec (.twiBeginTx addr) s = .next t) :
    s.hstate = .idle ∧ ((s.twi.begun = false ∧ t = s.raise .notBegun) ∨
      (s.twi.begun = true ∧ s.twi.busIdle = true ∧ (twiBeginTxWaiting addr).post s = .ok t) ∨
      (s.twi.begun = true ∧ s.twi.busIdle = false ∧ ∃ t', twiRetry s.ie s = .ok t' ∧
        t = t'.setHost (.wait .tBeginTx s.ie (.twiBeginTx addr)))) := by
  simp only [exec, execTwiBeginTx, hostCommand_eq_next] at h
  obtain ⟨hi, b⟩ := h
  refine ⟨hi, ?_⟩
  rcases ifTwiBegun_eq_ok b with ⟨g, b⟩ | ⟨g, b⟩
  · rcases Waiting.issue_eq_ok b with ⟨r, p⟩ | ⟨r, t', q, rfl⟩
    · exact .inr (.inl ⟨g, r, p⟩)
    · exact .inr (.inr ⟨g, r, t', q, rfl⟩)
  · exact .inl ⟨g, b⟩

theorem execTwiWrite_next {data : Byte} (h : exec (.twiWrite data) s = .next t) :
    s.hstate = .idle ∧ ((s.twi.begun = false ∧ t = s.raise .notBegun) ∨
      (s.twi.begun = true ∧ ((∃ st, (st = .writeNotStarted ∨ st = .sendBufferFull) ∧ t = twiWriteError st s) ∨
        (s.twi.txActive = true ∧ ∃ sb, s.twi.sendbuf.put .sendbuf s.twi.cap data = .ok (true, sb) ∧
          t = (s.setTwi { s.twi with sendbuf := sb }).respond 1)))) := by
  simp only [exec, execTwiWrite, hostCommand_eq_next] at h
  obtain ⟨hi, b⟩ := h
  refine ⟨hi, ?_⟩
  rcases ifTwiBegun_eq_ok b with ⟨g, b⟩ | ⟨g, b⟩
  · refine .inr ⟨g, ?_⟩
    split at b
    · next a =>
      obtain ⟨⟨accepted, sb⟩, k, o⟩ := bind_eq_ok.1 b
      dsimp only at o
      split at o
      · next c =>
        subst c
        exact .inr ⟨a, sb, k, (Except.ok.inj o).symm⟩
      · exact .inl ⟨_, .inr rfl, (Except.ok.inj o).symm⟩
    · exact .inl ⟨_, .inl rfl, (Except.ok.inj b).symm⟩
  · exact .inl ⟨g, b⟩

theorem execTwiEndTx_next {count : Nat} (h : exec (.twiEndTx count) s = .next t) :
    s.hstate = .idle ∧ ((∃ f, (f = .notBegun ∨ f = .twiBusy) ∧ t = s.raise f) ∨
      (∃ st, (st = .writeNotStarted ∨ st = .invalidCount) ∧ t = s.respond (respStatus st)) ∨
      (s.twi.begun = true ∧ s.twi.txActive = true ∧ count ≤ s.twi.cap ∧ s.twi.busIdle = true ∧
        t = (s.setTwi (s.twi.launchWrite count)).respond (respStatus .ok))) := by
  simp only [exec, execTwiEndTx, hostCommand_eq_next] at h
  obtain ⟨hi, b⟩ := h
  refine ⟨hi, ?_⟩
  rcases ifTwiBegun_eq_ok b with ⟨g, b⟩ | ⟨g, b⟩
  · split at b
    · exact .inr (.inl ⟨_, .inl rfl, (Except.ok.inj b).symm⟩)
    split at b
    · exact .inr (.inl ⟨_, .inr rfl, (Except.ok.inj b).symm⟩)
    split at b
    · exact .inl ⟨_, .inr rfl, (Except.ok.inj b).symm⟩
    · next h1 h2 h3 =>
      exact .inr (.inr ⟨g, by simpa using h1, by omega, by simpa using h3, (Except.ok.inj b).symm⟩)
  · exact .inl ⟨_, .inl rfl, b⟩

/-- The post-part of `TWI_REQUEST` (R174). -/
theorem twiRequestPost_eq_ok {addr : Byte} {count : Nat} (h : (twiRequestWaiting addr count).post s = .ok t) :
    (∃ st, (st = .invalidAddress ∨ st = .invalidCount) ∧ t = s.respond (respStatus st)) ∨
      (validAddr addr = true ∧ 0 < count ∧ count ≤ s.twi.cap ∧
        t = (s.setTwi (s.twi.launchRead addr count)).respond (respStatus .ok)) := by
  simp only [twiRequestWaiting] at h
  split at h
  · exact .inl ⟨_, .inl rfl, (Except.ok.inj h).symm⟩
  split at h
  · exact .inl ⟨_, .inr rfl, (Except.ok.inj h).symm⟩
  · next h1 h2 => exact .inr ⟨by simpa using h1, by omega, by omega, (Except.ok.inj h).symm⟩

theorem execTwiRequest_next {addr : Byte} {count : Nat} (h : exec (.twiRequest addr count) s = .next t) :
    s.hstate = .idle ∧ ((s.twi.begun = false ∧ t = s.raise .notBegun) ∨
      (s.twi.begun = true ∧ s.twi.busIdle = true ∧ (twiRequestWaiting addr count).post s = .ok t) ∨
      (s.twi.begun = true ∧ s.twi.busIdle = false ∧ ∃ t', twiRetry s.ie s = .ok t' ∧
        t = t'.setHost (.wait .tRequest s.ie (.twiRequest addr count)))) := by
  simp only [exec, execTwiRequest, hostCommand_eq_next] at h
  obtain ⟨hi, b⟩ := h
  refine ⟨hi, ?_⟩
  rcases ifTwiBegun_eq_ok b with ⟨g, b⟩ | ⟨g, b⟩
  · rcases Waiting.issue_eq_ok b with ⟨r, p⟩ | ⟨r, t', q, rfl⟩
    · exact .inr (.inl ⟨g, r, p⟩)
    · exact .inr (.inr ⟨g, r, t', q, rfl⟩)
  · exact .inl ⟨g, b⟩

theorem execTwiAvailable_next (h : exec .twiAvailable s = .next t) :
    s.hstate = .idle ∧ ((s.twi.begun = false ∧ t = s.raise .notBegun) ∨
      (s.twi.begun = true ∧ s.twi.srs = 0 ∧ t = s.respond (respCount s.twi.recvbuf.remaining)) ∨
      (s.twi.begun = true ∧ s.twi.srs ≠ 0 ∧ ∃ t', twiRetry s.ie s = .ok t' ∧
        t = t'.setHost (.wait .tAvailable s.ie .twiAvailable))) := by
  simp only [exec, execTwiAvailable, hostCommand_eq_next] at h
  obtain ⟨hi, b⟩ := h
  refine ⟨hi, ?_⟩
  rcases ifTwiBegun_eq_ok b with ⟨g, b⟩ | ⟨g, b⟩
  · rcases Waiting.issue_eq_ok b with ⟨r, p⟩ | ⟨r, t', q, rfl⟩
    · exact .inr (.inl ⟨g, by simpa [twiAvailableWaiting] using r, (Except.ok.inj p).symm⟩)
    · exact .inr (.inr ⟨g, by simpa [twiAvailableWaiting] using r, t', q, rfl⟩)
  · exact .inl ⟨g, b⟩

theorem execTwiRead_next (h : exec .twiRead s = .next t) :
    s.hstate = .idle ∧ ((s.twi.begun = false ∧ t = s.raise .notBegun) ∨
      (s.twi.begun = true ∧ ∃ b rb, s.twi.recvbuf.get .recvbuf s.twi.cap = .ok (b, rb) ∧
        t = (s.setTwi { s.twi with recvbuf := rb }).respond (respOption b))) := by
  simp only [exec, execTwiRead, hostCommand_eq_next] at h
  obtain ⟨hi, b⟩ := h
  refine ⟨hi, ?_⟩
  rcases ifTwiBegun_eq_ok b with ⟨g, b⟩ | ⟨g, b⟩
  · obtain ⟨⟨x, rb⟩, k, o⟩ := bind_eq_ok.1 b
    exact .inr ⟨g, x, rb, k, (Except.ok.inj o).symm⟩
  · exact .inl ⟨g, b⟩

theorem execTwiPeek_next (h : exec .twiPeek s = .next t) :
    s.hstate = .idle ∧ ((s.twi.begun = false ∧ t = s.raise .notBegun) ∨
      (s.twi.begun = true ∧ ∃ b, s.twi.recvbuf.peekB .recvbuf s.twi.cap = .ok b ∧
        t = s.respond (respOption b))) := by
  simp only [exec, execTwiPeek, hostCommand_eq_next] at h
  obtain ⟨hi, b⟩ := h
  refine ⟨hi, ?_⟩
  rcases ifTwiBegun_eq_ok b with ⟨g, b⟩ | ⟨g, b⟩
  · obtain ⟨x, k, o⟩ := bind_eq_ok.1 b
    exact .inr ⟨g, x, k, (Except.ok.inj o).symm⟩
  · exact .inl ⟨g, b⟩

theorem execTwiFlush_next (h : exec .twiFlush s = .next t) : s.hstate = .idle ∧ t = s.respond 0 := by
  simp only [exec, execTwiFlush, hostCommand_eq_next] at h
  exact ⟨h.1, (Except.ok.inj h.2).symm⟩

theorem execTwiReady_next (h : exec .twiReady s = .next t) :
    s.hstate = .idle ∧ t = s.respond (respBool s.twi.busIdle) := by
  simp only [exec, execTwiReady, hostCommand_eq_next] at h
  exact ⟨h.1, (Except.ok.inj h.2).symm⟩

theorem execTwiResult_next (h : exec .twiResult s = .next t) :
    s.hstate = .idle ∧ t = s.respond (respByte s.twi.tresult) := by
  simp only [exec, execTwiResult, hostCommand_eq_next] at h
  exact ⟨h.1, (Except.ok.inj h.2).symm⟩

theorem execTwiWrerr_next (h : exec .twiWrerr s = .next t) :
    s.hstate = .idle ∧ t = s.respond (respByte s.twi.werr) := by
  simp only [exec, execTwiWrerr, hostCommand_eq_next] at h
  exact ⟨h.1, (Except.ok.inj h.2).symm⟩

/-! ### `LINE` and `BUS` -/

theorem execEvRxByte_next {data : Byte} (h : exec (.evRxByte data) s = .next t) :
    t = s.setUart (s.uart.rxArrive data) := by
  simp only [exec, execEvRxByte, stimulus_eq_next] at h
  exact h.2

theorem execEvRxSpurious_next (h : exec .evRxSpurious s = .next t) :
    s.uart.rxen = true ∧ t = s.setUart { s.uart with rxSpur := true } := by
  simpa only [exec, execEvRxSpurious, stimulus_eq_next] using h

theorem execEvTxShiftDone_next (h : exec .evTxShiftDone s = .next t) :
    s.uart.txshift.isSome = true ∧ t = s.setUart s.uart.shiftDone := by
  simpa only [exec, execEvTxShiftDone, stimulus_eq_next] using h

theorem execEvCts_next {level : Bool} (h : exec (.evCts level) s = .next t) :
    s.cfg.ctsBound = true ∧ level ≠ s.uart.ctsIn ∧
      t = s.setUart { s.uart with ctsIn := level, ctsEdge := true } := by
  simp only [exec, execEvCts, stimulus_eq_next, Bool.and_eq_true, bne_iff_ne] at h
  exact ⟨h.1.1, h.1.2, h.2⟩

theorem execEvTwiAck_next (h : exec .evTwiAck s = .next t) :
    s.twi.eng.canAck = true ∧ t = s.setTwi { s.twi with eng := .none, nackf := false, wif := true } := by
  simpa only [exec, execEvTwiAck, stimulus_eq_next] using h

theorem execEvTwiNack_next (h : exec .evTwiNack s = .next t) :
    s.twi.eng.canNack = true ∧ t = s.setTwi { s.twi with eng := .none, nackf := true, wif := true } := by
  simpa only [exec, execEvTwiNack, stimulus_eq_next] using h

theorem execEvTwiRxbyte_next {data : Byte} (h : exec (.evTwiRxbyte data) s = .next t) :
    s.twi.eng.canReceive = true ∧
      t = s.setTwi { s.twi with eng := .none, dataIn := data, nackf := false, rif := true } := by
  simpa only [exec, execEvTwiRxbyte, stimulus_eq_next] using h

theorem execEvTwiArblost_next (h : exec .evTwiArblost s = .next t) :
    s.twi.eng.inTransfer = true ∧ t = s.setTwi { s.twi with eng := .none, arbf := true } := by
  simpa only [exec, execEvTwiArblost, stimulus_eq_next] using h

theorem execEvTwiBuserr_next (h : exec .evTwiBuserr s = .next t) :
    s.twi.eng.inTransfer = true ∧ t = s.setTwi { s.twi with eng := .none, berf := true } := by
  simpa only [exec, execEvTwiBuserr, stimulus_eq_next] using h

theorem execEvTwiBusIdle_next (h : exec .evTwiBusIdle s = .next t) :
    s.twi.canGoIdle = true ∧ t = s.setTwi { s.twi with eng := .none, busIdle := true } := by
  simpa only [exec, execEvTwiBusIdle, stimulus_eq_next] using h

end Sys2Proof.Machine
end

