-- ==== Sys2Proof/Laws/PerInstr.lean ====
section
/-! SUPPORT. Facts said of every instruction as syntax, one lemma for each constructor. -/

namespace Sys2Proof.Laws.StimulusBit

/-- `W[31] = 1` marks a stimulus and `W[31] = 0` a host command (30_encoding.md R90). -/
def Statement (i : Instr) : Prop := (encode i).getLsbD 31 = decide (i.origin ≠ .host)

theorem mkWord_bit (unit op : BitVec 4) (x : BitVec 24) : (mkWord unit op x).getLsbD 31 = unit.getLsbD 3 := by
  unfold mkWord
  rw [BitVec.getLsbD_append, BitVec.getLsbD_append]
  rfl

theorem sysCli : Statement (.sysCli) := mkWord_bit _ _ _
theorem sysSei : Statement (.sysSei) := mkWord_bit _ _ _
theorem uartBegin (f : BitVec 4) (b : Nat) : Statement (.uartBegin f b) := mkWord_bit _ _ _
theorem uartEnd : Statement (.uartEnd) := mkWord_bit _ _ _
theorem uartAvailable : Statement (.uartAvailable) := mkWord_bit _ _ _
theorem uartPeek : Statement (.uartPeek) := mkWord_bit _ _ _
theorem uartRead : Statement (.uartRead) := mkWord_bit _ _ _
theorem uartWrite (d : Byte) : Statement (.uartWrite d) := mkWord_bit _ _ _
theorem uartFlush : Statement (.uartFlush) := mkWord_bit _ _ _
theorem twiBegin (o : Byte) (s : BitVec 4) (c : Nat) : Statement (.twiBegin o s c) := mkWord_bit _ _ _
theorem twiBeginTx (a : Byte) : Statement (.twiBeginTx a) := mkWord_bit _ _ _
theorem twiWrite (d : Byte) : Statement (.twiWrite d) := mkWord_bit _ _ _
theorem twiEndTx (c : Nat) : Statement (.twiEndTx c) := mkWord_bit _ _ _
theorem twiRequest (a : Byte) (c : Nat) : Statement (.twiRequest a c) := mkWord_bit _ _ _
theorem twiAvailable : Statement (.twiAvailable) := mkWord_bit _ _ _
theorem twiRead : Statement (.twiRead) := mkWord_bit _ _ _
theorem twiPeek : Statement (.twiPeek) := mkWord_bit _ _ _
theorem twiFlush : Statement (.twiFlush) := mkWord_bit _ _ _
theorem twiReady : Statement (.twiReady) := mkWord_bit _ _ _
theorem twiResult : Statement (.twiResult) := mkWord_bit _ _ _
theorem twiWrerr : Statement (.twiWrerr) := mkWord_bit _ _ _
theorem evRxByte (d : Byte) : Statement (.evRxByte d) := mkWord_bit _ _ _
theorem evRxSpurious : Statement (.evRxSpurious) := mkWord_bit _ _ _
theorem evTxShiftDone : Statement (.evTxShiftDone) := mkWord_bit _ _ _
theorem evCts (l : Bool) : Statement (.evCts l) := mkWord_bit _ _ _
theorem evTwiAck : Statement (.evTwiAck) := mkWord_bit _ _ _
theorem evTwiNack : Statement (.evTwiNack) := mkWord_bit _ _ _
theorem evTwiRxbyte (d : Byte) : Statement (.evTwiRxbyte d) := mkWord_bit _ _ _
theorem evTwiArblost : Statement (.evTwiArblost) := mkWord_bit _ _ _
theorem evTwiBuserr : Statement (.evTwiBuserr) := mkWord_bit _ _ _
theorem evTwiBusIdle : Statement (.evTwiBusIdle) := mkWord_bit _ _ _

end Sys2Proof.Laws.StimulusBit
end

