-- ==== Sys2Proof/Laws/Words.lean ====
section
/-! SUPPORT. The fields of a word as numbers (30_encoding.md R90, R93): what a slice and a concatenation
hold, and the fields of an encoded word. -/

namespace Sys2Proof

/-- A concatenation, as a number. -/
theorem toNat_append {m n : Nat} (x : BitVec m) (y : BitVec n) : (x ++ y).toNat = x.toNat * 2 ^ n + y.toNat := by
  rw [BitVec.toNat_append, ← Nat.shiftLeft_add_eq_or_of_lt y.isLt, Nat.shiftLeft_eq]

/-- A slice of `k` bits from bit `a` on, as a number. -/
theorem toNat_slice {m : Nat} (x : BitVec m) (a k : Nat) :
    (x.extractLsb' a k).toNat = x.toNat / 2 ^ a % 2 ^ k := by
  rw [BitVec.extractLsb'_toNat, Nat.shiftRight_eq_div_pow]

/-- A word is its unit, its operation and its operand (R90). -/
theorem toNat_mkWord (unit op : BitVec 4) (x : BitVec 24) :
    (mkWord unit op x).toNat = unit.toNat * 2 ^ 28 + op.toNat * 2 ^ 24 + x.toNat := by
  unfold mkWord
  rw [toNat_append, toNat_append]
  omega

@[simp] theorem unitField_mkWord (unit op : BitVec 4) (x : BitVec 24) : unitField (mkWord unit op x) = unit := by
  apply BitVec.eq_of_toNat_eq
  unfold unitField
  rw [toNat_slice, toNat_mkWord]
  have := unit.isLt; have := op.isLt; have := x.isLt
  omega

@[simp] theorem opField_mkWord (unit op : BitVec 4) (x : BitVec 24) : opField (mkWord unit op x) = op := by
  apply BitVec.eq_of_toNat_eq
  unfold opField
  rw [toNat_slice, toNat_mkWord]
  have := unit.isLt; have := op.isLt; have := x.isLt
  omega

/-- A word is put together from its fields. -/
theorem toNat_eq_fields (w : Word) :
    w.toNat = (unitField w).toNat * 2 ^ 28 + (opField w).toNat * 2 ^ 24 + w.toNat % 2 ^ 24 := by
  unfold unitField opField
  rw [toNat_slice, toNat_slice]
  have := w.isLt
  omega

/-- A format that accepts has its must-be-zero bits zero (R92). -/
theorem ifZero_eq_ok {zero : Bool} {i j : Instr} (h : ifZero zero i = .ok j) : zero = true ∧ i = j := by
  unfold ifZero at h
  split at h
  · next c => exact ⟨c, Except.ok.inj h⟩
  · cases h

end Sys2Proof
end

