-- ==== Sys2Proof/Tests/Slice0.lean ====
section
/-! SUPPORT. Tests on fixed values, each expected result taken from the spec (the vectors and programs of
95_test_vectors.md are named "V<n>", "W<n>" and "P<n>"), and a witness for the hypotheses of each statement. The
parameters are the common ones of 95_test_vectors.md. -/

namespace Sys2Proof.Tests

open Sys2Proof.Machine

/-! ### Well-formedness: each check refuses a term that has no encoding (R93) -/

theorem test_wf_baud : (Instr.uartBegin 0 1048576).wellFormed = false ∧ (Instr.uartBegin 0 1048575).wellFormed = true := by
  decide
theorem test_wf_cap : (Instr.twiBegin 0 0 4096).wellFormed = false ∧ (Instr.twiBegin 0 0 4095).wellFormed = true := by
  decide
theorem test_wf_end_count : (Instr.twiEndTx 4096).wellFormed = false ∧ (Instr.twiEndTx 4095).wellFormed = true := by
  decide
theorem test_wf_request_count :
    (Instr.twiRequest 0 4096).wellFormed = false ∧ (Instr.twiRequest 0 4095).wellFormed = true := by
  decide

/-! ### Words of the spec (R94 to R98, R109, R112, V20 to V28) -/

theorem test_decode_sys :
    decode .host 0x01000000 = .ok .sysCli ∧ decode .host 0x02000000 = .ok .sysSei := by
  decide
theorem test_decode_uart :
    decode .host 0x10302580 = .ok (.uartBegin 3 9600) ∧ decode .host 0x10F00000 = .ok (.uartBegin 15 0) ∧
    decode .host 0x11000000 = .ok .uartEnd ∧ decode .host 0x12000000 = .ok .uartAvailable ∧
    decode .host 0x13000000 = .ok .uartPeek ∧ decode .host 0x14000000 = .ok .uartRead ∧
    decode .host 0x15000041 = .ok (.uartWrite 0x41) ∧ decode .host 0x16000000 = .ok .uartFlush := by
  decide
theorem test_decode_twi_compose :
    decode .host 0x20A51020 = .ok (.twiBegin 0xA5 1 32) ∧ decode .host 0x210000FF = .ok (.twiBeginTx 0xFF) ∧
    decode .host 0x22000001 = .ok (.twiWrite 0x01) ∧ decode .host 0x230000FF = .ok (.twiEndTx 255) ∧
    decode .host 0x24FFF050 = .ok (.twiRequest 0x50 4095) ∧ decode .host 0x24004050 = .ok (.twiRequest 0x50 4) := by
  decide
theorem test_decode_twi_query :
    decode .host 0x25000000 = .ok .twiAvailable ∧ decode .host 0x26000000 = .ok .twiRead ∧
    decode .host 0x27000000 = .ok .twiPeek ∧ decode .host 0x28000000 = .ok .twiFlush ∧
    decode .host 0x29000000 = .ok .twiReady ∧ decode .host 0x2A000000 = .ok .twiResult ∧
    decode .host 0x2B000000 = .ok .twiWrerr := by
  decide
theorem test_decode_line :
    decode .line 0x80000041 = .ok (.evRxByte 0x41) ∧ decode .line 0x81000000 = .ok .evRxSpurious ∧
    decode .line 0x82000000 = .ok .evTxShiftDone ∧ decode .line 0x83000000 = .ok (.evCts false) ∧
    decode .line 0x83000001 = .ok (.evCts true) := by
  decide
theorem test_decode_bus :
    decode .bus 0x90000000 = .ok .evTwiAck ∧ decode .bus 0x91000000 = .ok .evTwiNack ∧
    decode .bus 0x920000AA = .ok (.evTwiRxbyte 0xAA) ∧ decode .bus 0x93000000 = .ok .evTwiArblost ∧
    decode .bus 0x94000000 = .ok .evTwiBuserr ∧ decode .bus 0x95000000 = .ok .evTwiBusIdle := by
  decide
/-- V10 to V19, V21, V27. -/
theorem test_decode_illegal :
    decode .host 0x00000000 = .error .reservedOp ∧ decode .host 0x03000000 = .error .reservedOp ∧
    decode .host 0x17000000 = .error .reservedOp ∧ decode .host 0x2C000000 = .error .reservedOp ∧
    decode .host 0x31000000 = .error .reservedUnit ∧ decode .host 0x15000100 = .error .mustBeZero ∧
    decode .host 0x11000001 = .error .mustBeZero ∧ decode .host 0x24000150 = .error .mustBeZero ∧
    decode .host 0x23001000 = .error .mustBeZero ∧ decode .host 0x80000041 = .error .wrongOrigin ∧
    decode .line 0x83000002 = .error .mustBeZero ∧ decode .host 0x1FFFFFFF = .error .reservedOp := by
  decide
/-- The words that the spec prints, encoded. -/
theorem test_encode :
    encode (.uartBegin 3 9600) = 0x10302580 ∧ encode (.twiRequest 0x50 4) = 0x24004050 ∧
    encode (.twiBegin 0 1 32) = 0x20001020 ∧ encode (.evCts true) = 0x83000001 := by
  decide
/-- The value of `twi.write_bytes` in V105, and the expansion of `uart.print`. -/
theorem test_pseudo : writeBytesValue [1, 1, 0] = 2 ∧ asmUartPrint [0x41, 0x42] = [.uartWrite 0x41, .uartWrite 0x42] := by
  decide

/-! ### Concrete states -/

/-- `N_RX = N_TX = 8`, `RTS_BOUND = CTS_BOUND = CTS_EDGE_IRQ = 1`, `TWI_BUF_MAX = 64`; the open tables hold
distinct numbers. -/
def cfg : Params :=
  { nRxLess2 := 6, nTxLess2 := 6
    baudSingle := #v[0x101, 0x102, 0x103, 0x104, 0x105, 0x106, 0x107, 0x108, 0x109, 0x10A, 0x10B, 0x10C, 0x10D]
    baudDouble := #v[0x201, 0x202, 0x203, 0x204, 0x205, 0x206, 0x207, 0x208, 0x209, 0x20A, 0x20B, 0x20C, 0x20D]
    rtsBound := true, ctsBound := true, ctsEdgeIrq := true, rtsActiveLevel := false, ctsActiveLevel := false
    twiBufMaxLess1 := 63, twiDivisor0 := 0x48, twiDivisor1 := 0x0C, fClkLess1 := 0 }

/-- Draws with `CTS_IN = 0`. -/
def draws : ResetDraws :=
  { resp := 0x12345678, frame := 5, timing := 0x7777, u2x := true, udrRx := 0xEE, ctsIn := false
    ownAddr := 0x99, speed := 7, div := 0x66, dataIn := 0xDD }

/-- `S0`. -/
def s0 : State := State.resetWith cfg draws

/-- A ring that holds the bytes of a list from slot 0 on. -/
def ring (bs : List Byte) : RingBuffer :=
  { storage := bs.zipIdx.map fun c => (c.2, c.1), head := bs.length, tail := 0 }

/-- The channel after `uart.begin 9600`. -/
def chan : Uart :=
  { s0.uart with
    begun := true, rxen := true, txen := true, rxcie := true, rtsDriven := true
    frame := 0, timing := 0x104, u2x := false }

/-- The host idle with `IE = 1`, and the given channel. -/
def onUart (u : Uart) : State := { s0 with ie := true, uart := u }

/-- A draining buffer of the given bytes, `pos` of them taken. -/
def drained (bs : List Byte) (pos : Nat) : TwiBuffer :=
  { data := bs.zipIdx.map fun c => (c.2, c.1), pos := pos, lim := bs.length, mode := .drain, draw := 0 }

/-- A filling buffer of capacity 32 with the given bytes. -/
def filled (bs : List Byte) : TwiBuffer :=
  { data := bs.zipIdx.map fun c => (c.2, c.1), pos := bs.length, lim := 32, mode := .fill, draw := 0 }

/-- The controller after `twi.begin 32`, the bus idle. -/
def ctrl : Twi :=
  { s0.twi with
    begun := true, cap := 32, sendbuf := filled [], recvbuf := filled []
    ownAddr := 0, speed := 0, div := 0x48, irqen := true, busIdle := true, allocs := 2 }

/-- The controller in flight. -/
def busy : Twi := { ctrl with busIdle := false, sla := 0xA0, tstate := .addressPending, eng := .addrW }

/-- The host idle with `IE = 1`, and the given controller. -/
def onTwi (t : Twi) : State := { s0 with ie := true, twi := t }

/-- The step runs a word as the next move, and the state after it has the property. -/
def after (w : Nat) (s : State) (p : State → Bool) : Bool :=
  match step (s.withFetchWord 32 w) with
  | .next t => p t
  | .fault _ => false
  | .refused _ => false

/-- The step runs a dispatch or a poll, and the state after it has the property. -/
def afterMove (m : Move) (s : State) (p : State → Bool) : Bool :=
  match takeMove m s with
  | .next t => p t
  | .fault _ => false
  | .refused _ => false

/-- The word is no step: it is refused with this reason. -/
def refusedWith (w : Nat) (s : State) (r : Refusal) : Bool :=
  match step (s.withFetchWord 32 w) with
  | .next _ => false
  | .fault _ => false
  | .refused r' => r = r'

/-! ### System commands and faults -/

/-- From `State.reset` itself a word placed as the next move runs. -/
theorem test_from_reset : after 0x02000000 State.reset (fun t => t.ie && t.resp == 0 && t.sched.isEmpty) = true := rfl
theorem test_sei : after 0x02000000 s0 (fun t => t.ie && t.resp == 0) = true := by decide
theorem test_cli : after 0x01000000 (onUart chan) (fun t => !t.ie && t.resp == 0) = true := by decide
/-- V150 and V151. -/
theorem test_fault_first_kept :
    after 0x00000000 s0 (fun t => t.fault == 1 && t.resp == 0x80000001) = true ∧
    after 0x15000041 { s0 with fault := 1 } (fun t => t.fault == 1 && t.resp == 0x80000002) = true := by
  decide
/-- V154: busy is checked before the speed. -/
theorem test_fault_busy : after 0x20007010 (onTwi busy) (fun t => t.fault == 3 && t.resp == 0x80000003) = true := by
  decide

/-! ### UART commands -/

/-- V30. -/
theorem test_uart_begin :
    after 0x1001C200 s0 (fun t => t.resp == 0 && t.uart.u2x && t.uart.timing == 0x20A && t.uart.rxen && t.uart.txen &&
      t.uart.rxcie && t.uart.begun && t.uart.rtsDriven && !t.uart.rtsAsserted) = true := by
  decide
/-- V33. -/
theorem test_uart_begin_unsupported :
    after 0x10007A12 (onUart chan) (fun t => t.resp == 8 && t.uart == chan) = true := by
  decide
/-- V48. -/
theorem test_uart_end :
    after 0x11000000 { onUart { chan with txb := ring [1, 2], rxb := ring [3] } with ie := false } (fun t =>
      t.resp == 0 && t.uart.txb.empty && t.uart.rxb.tail == 1 && !t.uart.rxen && !t.uart.txen && !t.uart.begun) = true := by
  decide
/-- V49, its issue step. -/
theorem test_uart_end_waits :
    after 0x11000000 (onUart { chan with txb := ring [1, 2] })
      (fun t => t.hstate == .wait .uEnd true .uartEnd && t.uart.begun) = true := by
  decide
/-- V40. -/
theorem test_uart_available :
    after 0x12000000 (onUart { chan with rxb := { storage := [], head := 2, tail := 7 } }) (fun t => t.resp == 3) = true := by
  decide
/-- V41 and V37. -/
theorem test_uart_peek :
    after 0x13000000 (onUart { chan with rxb := ring [0x41, 0x42] })
      (fun t => t.resp == 0x41 && t.uart.rxb == ring [0x41, 0x42]) = true ∧
    after 0x13000000 s0 (fun t => t.resp == 0xFFFFFFFF) = true := by
  decide
/-- V42. -/
theorem test_uart_read_near_full :
    after 0x14000000 (onUart { chan with rxb := ring [1, 2, 3, 4], rtsAsserted := true })
      (fun t => t.resp == 1 && t.uart.rtsAsserted && t.uart.rxb.occ 8 == 3) = true := by
  decide
/-- V43. -/
theorem test_uart_read_releases :
    after 0x14000000 (onUart { chan with rxb := ring [0x55, 2, 3], rtsAsserted := true })
      (fun t => t.resp == 0x55 && !t.uart.rtsAsserted && t.uart.rxb.occ 8 == 2) = true := by
  decide
/-- V45. -/
theorem test_uart_write :
    after 0x15000041 (onUart { chan with txc := true }) (fun t => t.resp == 1 && t.uart.transmitting && t.uart.dreie &&
      !t.uart.txc && t.uart.txb == ring [0x41]) = true := by
  decide
/-- W8, step 9: the issue step replays the handler. -/
theorem test_uart_write_replays :
    after 0x15000048 { onUart { chan with txb := ring [0x41, 0x42, 0x43, 0x44, 0x45, 0x46, 0x47] } with ie := false }
      (fun t => t.hstate == .wait .uWrite false (.uartWrite 0x48) && t.uart.txshift == some 0x41 &&
        t.uart.txb.tail == 1) = true := by
  decide
/-- W8, step 10. -/
theorem test_uart_write_poll :
    afterMove .poll { onUart { chan with txb := { ring [0x41, 0x42, 0x43, 0x44, 0x45, 0x46, 0x47] with tail := 1 } } with
        ie := false, hstate := .wait .uWrite false (.uartWrite 0x48) }
      (fun t => t.resp == 1 && t.hstate == .idle && t.uart.txb.head == 0 && t.uart.txb.occ 8 == 7) = true := by
  decide
/-- V35, and V47 at issue. -/
theorem test_uart_flush :
    after 0x16000000 s0 (fun t => t.resp == 0) = true ∧
    after 0x16000000 (onUart { chan with transmitting := true, txshift := some 0x41 })
      (fun t => t.hstate == .wait .uFlush true .uartFlush) = true := by
  decide

/-! ### Line stimuli and the UART handlers -/

/-- V60 and V61. -/
theorem test_rx_byte :
    after 0x80000041 (onUart chan) (fun t => t.uart.udrRx == 0x41 && t.uart.dr && t.uart.uartIn == [0x41]) = true ∧
    after 0x80000042 (onUart { chan with dr := true, udrRx := 0x41 })
      (fun t => t.uart.udrRx == 0x41 && t.uart.uartIn == [0x42]) = true := by
  decide
/-- V63 and V64. -/
theorem test_rx_spurious :
    refusedWith 0x81000000 s0 .stimulusNotEnabled = true ∧ after 0x81000000 (onUart chan) (fun t => t.uart.rxSpur) = true := by
  decide
/-- V82 and V83. -/
theorem test_tx_shift_done :
    after 0x82000000 (onUart { chan with txshift := some 0x41, txhold := some 0x42 })
      (fun t => t.uart.uartOut == [0x41] && t.uart.txshift == some 0x42 && t.uart.txhold == none && !t.uart.txc) = true ∧
    after 0x82000000 (onUart { chan with txshift := some 0x42 })
      (fun t => t.uart.uartOut == [0x42] && t.uart.txshift == none && t.uart.txc) = true := by
  decide
/-- V79 and V80. -/
theorem test_cts :
    refusedWith 0x83000000 s0 .stimulusNotEnabled = true ∧
    after 0x83000001 s0 (fun t => t.uart.ctsIn && t.uart.ctsEdge && !t.anyPending) = true := by
  decide
/-- V65 and V66: the near-full test at occupancies 3 and 4. -/
theorem test_isr_rx_margin :
    afterMove (.dispatch .uartRx) (onUart { chan with rxb := ring [1, 2, 3], dr := true, udrRx := 0x33 })
      (fun t => !t.uart.rtsAsserted && !t.uart.dr && t.uart.rxb == ring [1, 2, 3, 0x33]) = true ∧
    afterMove (.dispatch .uartRx) (onUart { chan with rxb := ring [1, 2, 3, 4], dr := true, udrRx := 0x33 })
      (fun t => t.uart.rtsAsserted && !t.uart.dr && t.uart.rxb == ring [1, 2, 3, 4, 0x33]) = true := by
  decide
/-- V67 and V69: a full ring drops the byte, and a spurious run stores nothing. -/
theorem test_isr_rx_drops :
    afterMove (.dispatch .uartRx) (onUart { chan with rxb := ring [1, 2, 3, 4, 5, 6, 7], dr := true, udrRx := 0x77 })
      (fun t => t.uart.rtsAsserted && !t.uart.dr && t.uart.rxb == ring [1, 2, 3, 4, 5, 6, 7]) = true ∧
    afterMove (.dispatch .uartRx) (onUart { chan with rxb := ring [1, 2, 3, 4, 5], rxSpur := true })
      (fun t => t.uart.rtsAsserted && !t.uart.rxSpur && t.uart.rxb == ring [1, 2, 3, 4, 5]) = true := by
  decide
/-- V70 and V71. -/
theorem test_isr_dre_moves :
    afterMove (.dispatch .uartDre) (onUart { chan with dreie := true, txb := ring [0x41, 0x42] })
      (fun t => t.uart.txshift == some 0x41 && t.uart.dre) = true ∧
    afterMove (.dispatch .uartDre) (onUart { chan with
        dreie := true, txb := { ring [0x41, 0x42] with tail := 1 }, txshift := some 0x41 })
      (fun t => t.uart.txhold == some 0x42 && !t.pending .uartDre) = true := by
  decide
/-- V73, V74 and V75: the CTS stop. -/
theorem test_isr_dre_cts :
    let stopped := onUart { chan with dreie := true, txb := ring [0x41], ctsIn := true, ctsEdge := true }
    afterMove (.dispatch .uartDre) stopped
      (fun t => !t.uart.dreie && !t.uart.ctsEdge && t.uart.ctsIe && t.uart.txb == ring [0x41]) = true ∧
    afterMove (.dispatch .uartDre) { stopped with cfg := { cfg with ctsEdgeIrq := false } }
      (fun t => !t.uart.dreie && t.uart.ctsEdge && !t.uart.ctsIe) = true ∧
    afterMove (.dispatch .uartDre) { stopped with cfg := { cfg with ctsBound := false } }
      (fun t => t.uart.txshift == some 0x41) = true := by
  decide
/-- V76 and V78. -/
theorem test_isr_cts :
    afterMove (.dispatch .uartCts) (onUart { chan with ctsIe := true, ctsEdge := true, txb := ring [1, 2, 3] })
      (fun t => !t.uart.ctsEdge && t.uart.dreie && t.uart.ctsIe) = true ∧
    afterMove (.dispatch .uartCts) (onUart { chan with ctsIe := true, ctsEdge := true, ctsIn := true })
      (fun t => !t.uart.ctsEdge && !t.uart.ctsIe) = true := by
  decide
/-- V6: a dispatch needs `IE = 1`. -/
theorem test_dispatch_needs_ie :
    takeMove (.dispatch .uartRx) { onUart { chan with dr := true } with ie := false } = .refused .dispatchNotEnabled := rfl

/-! ### TWI commands -/

/-- V90 and V93. -/
theorem test_twi_begin :
    after 0x20001020 s0 (fun t => t.resp == 0 && t.twi.cap == 32 && t.twi.div == 0x0C && t.twi.busIdle && t.twi.irqen &&
      t.twi.tresult == 0 && t.twi.begun) = true ∧
    after 0x20000041 s0 (fun t => t.resp == 3 && !t.twi.begun) = true := by
  decide
/-- The examples of R171, and V101. -/
theorem test_twi_begin_tx :
    after 0x21000050 (onTwi ctrl) (fun t => t.resp == 0 && t.twi.sla == 0xA0 && t.twi.txActive) = true ∧
    after 0x21000080 (onTwi ctrl) (fun t => t.resp == 1 && t.twi == ctrl) = true := by
  decide
/-- V145: the issue step replays `ISR_TWI`, and the host waits. -/
theorem test_twi_begin_tx_replays :
    after 0x21000050 { onTwi { busy with eng := .none, wif := true, nackf := true } with ie := false }
      (fun t => t.twi.twiOut == [.stop] && t.twi.tresult == 2 && t.hstate == .wait .tBeginTx false (.twiBeginTx 0x50)) = true := by
  decide
/-- The example of R172, and V103. -/
theorem test_twi_write :
    after 0x22000001 (onTwi { ctrl with txActive := true }) (fun t => t.resp == 1 && t.twi.sendbuf == filled [1]) = true ∧
    after 0x22000001 (onTwi ctrl) (fun t => t.resp == 0 && t.twi.werr == 6) = true := by
  decide
/-- V107 and V108. -/
theorem test_twi_end_tx :
    after 0x23000021 (onTwi { ctrl with txActive := true }) (fun t => t.resp == 5 && t.twi.txActive) = true ∧
    after 0x23000020 (onTwi { ctrl with txActive := true, sla := 0xA0, sendbuf := filled [1, 2] }) (fun t =>
      t.resp == 0 && t.twi.srs == 32 && t.twi.sendbuf == drained [1, 2] 0 && t.twi.eng == .addrW && !t.twi.busIdle &&
      t.twi.tstate == .addressPending && t.twi.twiOut == [.start 0xA0]) = true := by
  decide
/-- The example of R174, and V112: the address is checked before the count. -/
theorem test_twi_request :
    after 0x24004050 (onTwi ctrl) (fun t => t.resp == 0 && t.twi.sla == 0xA1 && t.twi.srs == 4 && t.twi.eng == .addrR &&
      t.twi.twiOut == [.start 0xA1]) = true ∧
    after 0x24000080 (onTwi ctrl) (fun t => t.resp == 1) = true := by
  decide
/-- V118, and W7 step 2. -/
theorem test_twi_available :
    after 0x25000000 (onTwi { ctrl with recvbuf := drained [1, 2, 3] 1 }) (fun t => t.resp == 2) = true ∧
    after 0x25000000 (onTwi { busy with srs := 4, eng := .addrR })
      (fun t => t.hstate == .wait .tAvailable true .twiAvailable) = true := by
  decide
/-- V115 and V117. -/
theorem test_twi_read :
    after 0x26000000 (onTwi { ctrl with recvbuf := drained [0xAA, 0xBB] 0 })
      (fun t => t.resp == 0xAA && t.twi.recvbuf.pos == 1) = true ∧
    after 0x26000000 (onTwi { ctrl with recvbuf := drained [0xAA, 0xBB] 2 }) (fun t => t.resp == 0xFFFFFFFF) = true := by
  decide
/-- V116 and V114. -/
theorem test_twi_peek :
    after 0x27000000 (onTwi { ctrl with recvbuf := drained [0xAA, 0xBB] 1 })
      (fun t => t.resp == 0xBB && t.twi.recvbuf.pos == 1) = true ∧
    after 0x27000000 (onTwi ctrl) (fun t => t.resp == 0xFFFFFFFF) = true := by
  decide
/-- V99, V100 and V120, and the examples of R179 and R181. -/
theorem test_twi_queries :
    after 0x28000000 s0 (fun t => t.resp == 0) = true ∧ after 0x29000000 s0 (fun t => t.resp == 0) = true ∧
    after 0x29000000 (onTwi ctrl) (fun t => t.resp == 1) = true ∧
    after 0x2A000000 (onTwi { busy with tresult := 1 }) (fun t => t.resp == 1) = true ∧
    after 0x2B000000 (onTwi { ctrl with werr := 6 }) (fun t => t.resp == 6 && t.twi.werr == 6) = true := by
  decide

/-! ### Bus stimuli and `ISR_TWI` -/

/-- V130 and V131. -/
theorem test_bus_ack :
    after 0x90000000 (onTwi busy) (fun t => t.twi.wif && !t.twi.nackf && t.twi.eng == .none) = true ∧
    refusedWith 0x90000000 (onTwi { busy with eng := .addrR }) .stimulusNotEnabled = true := by
  decide
/-- V132 and V133. -/
theorem test_bus_nack :
    after 0x91000000 (onTwi { busy with eng := .addrR }) (fun t => t.twi.wif && t.twi.nackf) = true ∧
    refusedWith 0x91000000 (onTwi { busy with eng := .recv }) .stimulusNotEnabled = true := by
  decide
/-- The example of R198, and V134. -/
theorem test_bus_rxbyte :
    after 0x920000AA (onTwi { busy with eng := .recv }) (fun t => t.twi.dataIn == 0xAA && t.twi.rif) = true ∧
    refusedWith 0x92000011 (onTwi { busy with eng := .dataW }) .stimulusNotEnabled = true := by
  decide
/-- V138 and V135. -/
theorem test_bus_arblost :
    after 0x93000000 (onTwi { busy with eng := .recv, srs := 2 }) (fun t => t.twi.arbf && t.twi.eng == .none) = true ∧
    refusedWith 0x93000000 (onTwi { busy with eng := .stop }) .stimulusNotEnabled = true := by
  decide
/-- V141 and V135. -/
theorem test_bus_buserr :
    after 0x94000000 (onTwi busy) (fun t => t.twi.berf && t.twi.eng == .none) = true ∧
    refusedWith 0x94000000 (onTwi { busy with eng := .stop }) .stimulusNotEnabled = true := by
  decide
/-- V136 and V137. -/
theorem test_bus_idle :
    after 0x95000000 (onTwi { busy with eng := .stop }) (fun t => t.twi.busIdle && t.twi.eng == .none) = true ∧
    refusedWith 0x95000000 (onTwi { busy with eng := .none, wif := true }) .stimulusNotEnabled = true := by
  decide
/-- V142, and the example of R205. -/
theorem test_isr_twi_write :
    afterMove (.dispatch .twi) (onTwi { busy with eng := .none, wif := true, srs := 3, sendbuf := drained [] 0 })
      (fun t => t.twi.twiOut == [.rstart 0xA1] && t.twi.eng == .addrR && t.twi.tstate == .repeatedStart &&
        t.twi.sla == 0xA0) = true ∧
    afterMove (.dispatch .twi) (onTwi { busy with eng := .none, wif := true, sendbuf := drained [1, 2] 1 })
      (fun t => t.twi.twiOut == [.data 2] && t.twi.sendbuf.pos == 2 && t.twi.tstate == .writingData &&
        t.twi.eng == .dataW) = true := by
  decide
/-- V143, and the example of R206. -/
theorem test_isr_twi_read :
    afterMove (.dispatch .twi) (onTwi { busy with eng := .none, rif := true, srs := 3, dataIn := 0x5A })
      (fun t => t.twi.twiOut == [.ack] && t.twi.eng == .recv && t.twi.srs == 2 && t.twi.recvbuf == filled [0x5A]) = true ∧
    afterMove (.dispatch .twi) (onTwi { busy with eng := .none, rif := true, srs := 1, dataIn := 0xBB, recvbuf := filled [0xAA] })
      (fun t => t.twi.recvbuf == drained [0xAA, 0xBB] 0 && t.twi.srs == 0 && t.twi.twiOut == [.nackStop] &&
        t.twi.tresult == 1 && t.twi.tstate == .idle && t.twi.eng == .stop) = true := by
  decide
/-- V138 and V141: the error branches. -/
theorem test_isr_twi_errors :
    afterMove (.dispatch .twi) (onTwi { busy with eng := .none, arbf := true, srs := 2 })
      (fun t => t.twi.tresult == 3 && t.twi.tstate == .arbLost && !t.twi.arbf && t.twi.twiOut == [] && t.twi.srs == 2) = true ∧
    afterMove (.dispatch .twi) (onTwi { busy with eng := .none, berf := true })
      (fun t => t.twi.tresult == 4 && t.twi.tstate == .busError && !t.twi.berf) = true := by
  decide

/-! ### Buffers -/

/-- W2, around the wrap. -/
theorem test_ring_wraps :
    (RingBuffer.runOps .rxb 8 { storage := [], head := 6, tail := 6 }
      [.store 0x61, .store 0x62, .take, .store 0x63, .take, .take, .take]).toOption.map (fun r => (r.1, r.2.head, r.2.tail)) =
      some ([some 0x61, some 0x62, some 0x63, none], 1, 1) := by
  decide
/-- W3, at `N = 8`, `N = 2` and `N = 5`. -/
theorem test_near_full :
    (ring [1, 2, 3]).nearFull 8 3 = false ∧ (ring [1, 2, 3, 4]).nearFull 8 3 = true ∧ (ring []).nearFull 2 3 = true ∧
    (ring []).nearFull 5 3 = false ∧ (ring [1]).nearFull 5 3 = true := by
  decide
/-- The model's stop: an index outside a memory (R65). -/
theorem test_index_out_of_range : memRead .rxb 8 0 [] 8 = .error (.indexOutOfRange .rxb 8) := by decide

/-! ### Witnesses: states and operands that meet the hypotheses of the statements, clause by clause -/

theorem witness_DecodeInvertsEncode :
    (Instr.twiRequest 0xFF 4095).wellFormed = true ∧ (Instr.uartBegin 15 1048575).wellFormed = true := by
  decide

theorem witness_EncodeInvertsDecode : decode .host 0x24FFF050 = .ok (.twiRequest 0x50 4095) := by decide

theorem witness_DecoderFollowsOpcodeTable :
    (∃ r ∈ opcodeRows, r.origin = .line ∧ (0x83000001 : Word) &&& r.mask = r.pattern ∧ r.read 0x83000001 = .evCts true) ∧
    ∃ r ∈ opcodeRows, ∃ r' ∈ opcodeRows, (0x15000041 : Word) &&& r.mask = r.pattern ∧
      (0x15000041 : Word) &&& r'.mask = r'.pattern := by
  refine ⟨⟨⟨.line, 0xFFFFFFFE, 0x83000000, fun w => .evCts (w.getLsbD 0)⟩, ?_, by decide, by decide, by decide⟩,
    ⟨⟨.host, 0xFFFFFF00, 0x15000000, fun w => .uartWrite (w.extractLsb' 0 8)⟩, ?_, ⟨.host, 0xFFFFFF00, 0x15000000,
      fun w => .uartWrite (w.extractLsb' 0 8)⟩, ?_, by decide, by decide⟩⟩ <;>
    simp [opcodeRows, sysRows, uartRows, twiRows, lineRows, busRows]

/-- The words of each encoding line (`DecodesAs`) that has operand bits, with all of them set. -/
theorem witness_DecodesAs :
    (0x10FFFFFF : Word) &&& 0xFF000000 = 0x10000000 ∧ (0x150000FF : Word) &&& 0xFFFFFF00 = 0x15000000 ∧
    (0x20FFFFFF : Word) &&& 0xFF000000 = 0x20000000 ∧ (0x220000FF : Word) &&& 0xFFFFFF00 = 0x22000000 ∧
    (0x23000FFF : Word) &&& 0xFFFFF000 = 0x23000000 ∧ (0x800000FF : Word) &&& 0xFFFFFF00 = 0x80000000 ∧
    (0x83000001 : Word) &&& 0xFFFFFFFE = 0x83000000 ∧ (0x920000FF : Word) &&& 0xFFFFFF00 = 0x92000000 ∧
    (0x11000000 : Word) &&& 0xFFFFFFFF = 0x11000000 := by
  decide

theorem witness_IllegalHostWordFaults :
    (decode .host 0x00000000 = .error .reservedOp ∧ s0.hstate = .idle) ∧
    (unitField 0x30000000 ≠ 0x0 ∧ unitField 0x30000000 ≠ 0x1 ∧ unitField 0x30000000 ≠ 0x2) ∧
    (unitField 0x03000000 = 0x0 ∧ opField 0x03000000 ≠ 0x1 ∧ opField 0x03000000 ≠ 0x2) ∧
    (unitField 0x17000000 = 0x1 ∧ 0x6 < (opField 0x17000000).toNat) ∧
    (unitField 0x2C000000 = 0x2 ∧ 0xB < (opField 0x2C000000).toNat) ∧
    (unitField 0x01000001 = 0x0 ∧ (0x01000001 : Word).extractLsb' 0 24 ≠ 0) ∧
    (unitField 0x11000001 = 0x1 ∧ opField 0x11000001 ≠ 0x0 ∧ opField 0x11000001 ≠ 0x5 ∧
      (0x11000001 : Word).extractLsb' 0 24 ≠ 0) ∧
    (unitField 0x15000100 = 0x1 ∧ opField 0x15000100 = 0x5 ∧ (0x15000100 : Word).extractLsb' 8 16 ≠ 0) ∧
    (unitField 0x25000001 = 0x2 ∧ 0x4 < (opField 0x25000001).toNat ∧ (0x25000001 : Word).extractLsb' 0 24 ≠ 0) ∧
    (unitField 0x21000100 = 0x2 ∧ (opField 0x21000100 = 0x1 ∨ opField 0x21000100 = 0x2) ∧
      (0x21000100 : Word).extractLsb' 8 16 ≠ 0) ∧
    (unitField 0x23001000 = 0x2 ∧ opField 0x23001000 = 0x3 ∧ (0x23001000 : Word).extractLsb' 12 12 ≠ 0) ∧
    (unitField 0x24000100 = 0x2 ∧ opField 0x24000100 = 0x4 ∧ (0x24000100 : Word).extractLsb' 8 4 ≠ 0) := by
  decide

theorem witness_ReservedStimulusWordIsRefused :
    (Origin.line ≠ .host ∧ decode .line 0x83000002 = .error .mustBeZero) ∧
    (Origin.bus ≠ .host ∧ decode .bus 0x920000FF = .ok (.evTwiRxbyte 0xFF)) ∧
    unitField 0x90000000 ≠ 0x8 ∧ unitField 0x80000000 ≠ 0x9 := by
  decide

theorem witness_StepRunsDecodedInstruction :
    ({ s0 with sched := [.word .line 0x800000FF] }.sched = .word .line 0x800000FF :: [] ∧
      decode .line 0x800000FF = .ok (.evRxByte 0xFF) ∧ (Instr.evRxByte 0xFF).wellFormed = true) ∧
    { s0 with sched := [.poll] }.sched = .poll :: [] ∧
    { s0 with sched := [.dispatch .twi] }.sched = .dispatch .twi :: [] ∧ s0.sched = [] ∧
    decodeTableWord 32 0x15000041 = some (.uartWrite 0x41) := by
  decide

theorem witness_WaitingHostIssuesNoCommand :
    { s0 with hstate := .wait .uFlush false .uartFlush }.hstate ≠ .idle ∧ s0.hstate = .idle := by
  decide

theorem witness_SysCommandsSetIE : (onUart chan).hstate = .idle ∧ s0.hstate = .idle := by decide

/-- Moves that give a next state: the issue of `SYS_CLI`, of `SYS_SEI`, of each begin, and a move that is none
of them. -/
theorem witness_moves :
    (∃ t, takeMove (.word .host 0x01000000) (onUart chan) = .next t) ∧
    (∃ t, takeMove (.word .host 0x02000000) s0 = .next t) ∧
    (∃ t, takeMove (.word .host 0x10002580) s0 = .next t) ∧
    (∃ t, takeMove (.word .host 0x20000020) s0 = .next t) ∧
    (∃ t, takeMove (.dispatch .uartRx) (onUart { chan with dr := true }) = .next t) ∧
    (∃ t, takeMove .poll { s0 with hstate := .wait .uFlush false .uartFlush } = .next t) :=
  ⟨⟨_, rfl⟩, ⟨_, rfl⟩, ⟨_, rfl⟩, ⟨_, rfl⟩, ⟨_, rfl⟩, ⟨_, rfl⟩⟩

theorem witness_OnlySysCommandsChangeIE : ∃ t, takeMove (.word .host 0x02000000) s0 = .next t := ⟨_, rfl⟩

theorem witness_NoStepChangesParameters :
    ∃ t, step { s0 with sched := [.word .host 0x10002580] } = .next t := ⟨_, rfl⟩

theorem witness_OnlyBeginWritesConfiguration : ∃ t, takeMove (.word .host 0x20000020) s0 = .next t := ⟨_, rfl⟩

theorem witness_BaudResolveIsTheTable : 57601 ∉ canonBauds ∧ 57600 ∈ canonBauds := by decide

theorem witness_UartBeginConfigures : s0.hstate = .idle ∧ 31250 ∉ canonBauds ∧ 0 ∉ canonBauds := by decide

theorem witness_UartEndClosesChannel :
    (s0.hstate = .idle ∧ s0.ie = false) ∧
    (let s := onUart { chan with txb := ring [1] };
      s.hstate = .idle ∧ s.ie = true ∧ s.uart.txb.head ≠ s.uart.txb.tail) ∧
    (let s := { onUart chan with hstate := .wait .uEnd true .uartEnd };
      s.hstate = .wait .uEnd true .uartEnd ∧ s.uart.txb.head = s.uart.txb.tail) ∧
    (let s := { onUart { chan with txb := ring [1] } with hstate := .wait .uEnd true .uartEnd };
      s.hstate = .wait .uEnd true .uartEnd ∧ s.uart.txb.head ≠ s.uart.txb.tail) := by
  decide

theorem witness_UartAvailableCountsUnread : (onUart { chan with rxb := ring [1, 2, 3, 4, 5, 6, 7] }).hstate = .idle := by decide

theorem witness_UartPeekShowsOldest :
    let s := onUart { chan with rxb := { ring [1] with head := 0, tail := 7 } }
    s.hstate = .idle ∧ s.uart.rxb.tail < s.cfg.nRx := by
  decide

theorem witness_UartReadTakesOldest :
    (let s := onUart chan;
      s.hstate = .idle ∧ s.uart.rxb.Wf .rxb s.cfg.nRx ∧ s.uart.rxb.head = s.uart.rxb.tail) ∧
    (let s := onUart { chan with rxb := ring [1, 2, 3, 4, 5, 6, 7] };
      s.hstate = .idle ∧ s.uart.rxb.Wf .rxb s.cfg.nRx ∧ s.uart.rxb.head ≠ s.uart.rxb.tail) := by
  repeat' (first | decide | constructor)

/-- A full TX ring. -/
def fullTx : RingBuffer := ring [0x41, 0x42, 0x43, 0x44, 0x45, 0x46, 0x47]

theorem witness_UartWriteStoresOrWaits :
    (s0.hstate = .idle ∧ s0.uart.begun = false) ∧
    (let s := onUart { chan with txb := ring [1, 2, 3, 4, 5, 6] };
      s.hstate = .idle ∧ s.uart.begun = true ∧ s.uart.txb.Wf .txb s.cfg.nTx ∧
        (s.uart.txb.head + 1) % s.cfg.nTx ≠ s.uart.txb.tail) ∧
    (let s := onUart { chan with txb := fullTx };
      s.hstate = .idle ∧ s.uart.begun = true ∧ ¬ (s.uart.txb.head + 1) % s.cfg.nTx ≠ s.uart.txb.tail ∧ s.ie = true) ∧
    (let s := { onUart { chan with txb := fullTx, txshift := some 1, txhold := some 2 } with ie := false };
      s.hstate = .idle ∧ s.uart.begun = true ∧ ¬ (s.uart.txb.head + 1) % s.cfg.nTx ≠ s.uart.txb.tail ∧ s.ie = false ∧
        s.uart.txhold ≠ none) ∧
    (let s := { onUart { chan with txb := fullTx } with ie := false };
      s.hstate = .idle ∧ s.uart.begun = true ∧ ¬ (s.uart.txb.head + 1) % s.cfg.nTx ≠ s.uart.txb.tail ∧ s.ie = false ∧
        s.uart.txhold = none ∧ ∃ u, isrUartDre s.cfg s.uart = .ok u) := by
  repeat' (first | decide | rfl | constructor)

/-- The polls of R132, one state for each clause. -/
theorem witness_UartWriteStoresOrWaits_poll :
    (let s := { onUart chan with hstate := .wait .uWrite true (.uartWrite 0x48) };
      s.hstate = .wait .uWrite true (.uartWrite 0x48) ∧ s.uart.txb.Wf .txb s.cfg.nTx ∧
        (s.uart.txb.head + 1) % s.cfg.nTx ≠ s.uart.txb.tail) ∧
    (let s := { onUart { chan with txb := fullTx } with hstate := .wait .uWrite true (.uartWrite 0x48) };
      s.hstate = .wait .uWrite true (.uartWrite 0x48) ∧ ¬ (s.uart.txb.head + 1) % s.cfg.nTx ≠ s.uart.txb.tail) ∧
    (let s := { onUart { chan with txb := fullTx, txshift := some 1, txhold := some 2 } with
        ie := false, hstate := .wait .uWrite false (.uartWrite 0x48) };
      s.hstate = .wait .uWrite false (.uartWrite 0x48) ∧ ¬ (s.uart.txb.head + 1) % s.cfg.nTx ≠ s.uart.txb.tail ∧
        s.uart.txhold ≠ none) ∧
    (let s := { onUart { chan with txb := fullTx } with ie := false, hstate := .wait .uWrite false (.uartWrite 0x48) };
      s.hstate = .wait .uWrite false (.uartWrite 0x48) ∧ ¬ (s.uart.txb.head + 1) % s.cfg.nTx ≠ s.uart.txb.tail ∧
        s.uart.txhold = none ∧ ∃ u, isrUartDre s.cfg s.uart = .ok u) := by
  repeat' (first | decide | rfl | constructor)

theorem witness_WriteCompletesWithInterruptsOff :
    let s := { onUart { chan with txb := fullTx } with ie := false }
    s.hstate = .idle ∧ s.ie = false ∧ s.uart.begun = true ∧ s.uart.txen = true ∧ s.uart.txb.Wf .txb s.cfg.nTx ∧
      s.uart.txb.full s.cfg.nTx = true ∧ s.uart.txhold = none ∧ (s.cfg.ctsBound = false ∨ s.uart.ctsIn = false) := by
  repeat' (first | decide | constructor)

theorem witness_UartFlushWaitsForTransmission :
    (s0.hstate = .idle ∧ ¬ (s0.uart.transmitting = true ∧ s0.uart.txc = false)) ∧
    (let s := onUart { chan with transmitting := true, txshift := some 1 };
      s.hstate = .idle ∧ ¬ ¬ (s.uart.transmitting = true ∧ s.uart.txc = false) ∧ (s.ie = true ∨ s.uart.txhold ≠ none)) ∧
    (let s := { onUart { chan with transmitting := true, txb := ring [1] } with ie := false };
      s.hstate = .idle ∧ ¬ ¬ (s.uart.transmitting = true ∧ s.uart.txc = false) ∧ s.ie = false ∧ s.uart.txhold = none ∧
        ∃ u, isrUartDre s.cfg s.uart = .ok u) := by
  repeat' (first | decide | rfl | constructor)

/-- The polls of R133, one state for each clause. -/
theorem witness_UartFlushWaitsForTransmission_poll :
    (let s := { onUart { chan with transmitting := true, txc := true } with hstate := .wait .uFlush true .uartFlush };
      s.hstate = .wait .uFlush true .uartFlush ∧ ¬ (s.uart.transmitting = true ∧ s.uart.txc = false)) ∧
    (let s := { onUart { chan with transmitting := true, txshift := some 1, txhold := some 2 } with
        ie := false, hstate := .wait .uFlush false .uartFlush };
      s.hstate = .wait .uFlush false .uartFlush ∧ ¬ ¬ (s.uart.transmitting = true ∧ s.uart.txc = false) ∧
        (false = true ∨ s.uart.txhold ≠ none)) ∧
    (let s := { onUart { chan with transmitting := true, txb := ring [1] } with
        ie := false, hstate := .wait .uFlush false .uartFlush };
      s.hstate = .wait .uFlush false .uartFlush ∧ ¬ ¬ (s.uart.transmitting = true ∧ s.uart.txc = false) ∧
        s.uart.txhold = none ∧ ∃ u, isrUartDre s.cfg s.uart = .ok u) := by
  repeat' (first | decide | rfl | constructor)

theorem witness_DispatchNeedsIEAndPending :
    (let s := onUart { chan with dr := true };
      s.ie = true ∧ s.pending .uartRx = true) ∧
    s0.ie = false ∧ (onUart chan).pending .uartRx = false := by
  decide

theorem witness_HandlerRunKeepsHostState :
    (∃ t, dispatch .uartRx (onUart { chan with dr := true }) = .next t) ∧
    ∃ t, dispatch .twi (onTwi { busy with eng := .none, arbf := true }) = .next t :=
  ⟨⟨_, rfl⟩, ⟨_, rfl⟩⟩

theorem witness_ReceiveHandlerStoresByte :
    (let s := onUart { chan with rxb := ring [1, 2, 3, 4, 5, 6], dr := true };
      s.ie = true ∧ s.uart.rxcie = true ∧ (s.uart.dr = true ∨ s.uart.rxSpur = true) ∧ s.uart.rxb.Wf .rxb s.cfg.nRx ∧
        (s.uart.rxb.contents .rxb s.cfg.nRx).length < s.cfg.nRx - 1) ∧
    (let s := onUart { chan with rxb := ring [1, 2, 3, 4, 5, 6, 7], dr := true };
      s.ie = true ∧ s.uart.rxcie = true ∧ (s.uart.dr = true ∨ s.uart.rxSpur = true) ∧ s.uart.rxb.Wf .rxb s.cfg.nRx ∧
        ¬ (s.uart.rxb.contents .rxb s.cfg.nRx).length < s.cfg.nRx - 1) := by
  repeat' (first | decide | constructor)

theorem witness_TransmitHandlerMovesByte :
    let base (s : State) : Prop := s.ie = true ∧ s.uart.dreie = true ∧ s.uart.txhold = none
    let stop (s : State) : Prop := s.cfg.ctsBound = true ∧ s.uart.ctsIn = true
    let stopped := onUart { chan with dreie := true, ctsIn := true }
    let moving := onUart { chan with dreie := true, txb := { ring [1] with head := 0, tail := 7 } }
    (base stopped ∧ stop stopped ∧ stopped.cfg.ctsEdgeIrq = true) ∧
    (let s := { stopped with cfg := { cfg with ctsEdgeIrq := false } };
      base s ∧ stop s ∧ s.cfg.ctsEdgeIrq = false) ∧
    (let s := onUart { chan with dreie := true };
      base s ∧ ¬ stop s ∧ s.uart.txb.head = s.uart.txb.tail) ∧
    (base moving ∧ ¬ stop moving ∧ moving.uart.txb.head ≠ moving.uart.txb.tail ∧
      moving.uart.txb.tail < moving.cfg.nTx ∧ moving.uart.txen = true ∧ moving.uart.txshift = none) ∧
    (let s := onUart { moving.uart with txshift := some 1 };
      base s ∧ ¬ stop s ∧ s.uart.txb.head ≠ s.uart.txb.tail ∧ s.uart.txb.tail < s.cfg.nTx ∧ s.uart.txen = true ∧
        s.uart.txshift ≠ none) ∧
    (let s := onUart { moving.uart with txen := false };
      base s ∧ ¬ stop s ∧ s.uart.txb.head ≠ s.uart.txb.tail ∧ s.uart.txb.tail < s.cfg.nTx ∧ s.uart.txen = false) := by
  decide

theorem witness_CtsHandlerResumesOrDisarms :
    let armed (u : Uart) : State := onUart { u with ctsIe := true, ctsEdge := true }
    ((armed chan).ie = true ∧ (armed chan).uart.ctsIe = true ∧ (armed chan).uart.ctsEdge = true) ∧
    (let s := armed { chan with txb := ring [1] };
      s.uart.ctsIn = false ∧ s.uart.txb.head ≠ s.uart.txb.tail) ∧
    ((armed chan).uart.ctsIn = false ∧ (armed chan).uart.txb.head = (armed chan).uart.txb.tail) ∧
    (armed { chan with ctsIn := true }).uart.ctsIn = true := by
  decide

theorem witness_ByteArrivalIsKeptOrLost :
    ((onUart chan).uart.rxen = true ∧ (onUart chan).uart.dr = false) ∧
    (s0.uart.rxen = false ∨ s0.uart.dr = true) ∧ (onUart { chan with dr := true }).uart.dr = true := by
  decide

theorem witness_LineStimuliWhenEnabled :
    (onUart chan).uart.rxen = true ∧ s0.uart.rxen = false ∧
    (onUart { chan with txshift := some 0x41 }).uart.txshift = some 0x41 ∧ s0.uart.txshift = none ∧
    (s0.cfg.ctsBound = true ∧ true ≠ s0.uart.ctsIn) ∧ (s0.cfg.ctsBound = false ∨ false = s0.uart.ctsIn) := by
  decide

theorem witness_CommandBeforeBeginFaults :
    s0.hstate = .idle ∧ s0.uart.begun = false ∧ s0.twi.begun = false := by
  decide

theorem witness_TwiBeginChecksThenConfigures :
    ((onTwi busy).hstate = .idle ∧ (onTwi busy).twi.begun = true ∧ (onTwi busy).twi.busIdle = false) ∧
    (s0.hstate = .idle ∧ (s0.twi.begun = false ∨ s0.twi.busIdle = true)) ∧
    ((2 : BitVec 4) ≠ 0 ∧ (2 : BitVec 4) ≠ 1) ∧ ((1 : BitVec 4) = 0 ∨ (1 : BitVec 4) = 1) ∧
    65 > s0.cfg.twiBufMax ∧ 0 < 64 ∧ 64 ≤ s0.cfg.twiBufMax := by
  decide

theorem witness_TwiBeginTxStartsComposing :
    (onTwi ctrl).twi.busIdle = true ∧ (onTwi ctrl).hstate = .idle ∧ (onTwi ctrl).twi.begun = true ∧
    (0x7F : Byte) ≤ 0x7F ∧ (0x7F : Byte) < 0x80 ∧
    { onTwi ctrl with hstate := .wait .tBeginTx true (.twiBeginTx 0x7F) }.hstate = .wait .tBeginTx true (.twiBeginTx 0x7F) := by
  decide

theorem witness_TwiWriteAppendsOrRecordsError :
    (s0.hstate = .idle ∧ s0.twi.begun = false) ∧
    ((onTwi ctrl).hstate = .idle ∧ (onTwi ctrl).twi.begun = true ∧ (onTwi ctrl).twi.txActive = false) ∧
    (let s := onTwi { ctrl with txActive := true };
      s.hstate = .idle ∧ s.twi.begun = true ∧ s.twi.txActive = true ∧ s.twi.sendbuf.Wf .sendbuf s.twi.cap ∧
        s.twi.sendbuf.mode = .fill ∧ s.twi.sendbuf.pos < s.twi.sendbuf.lim) ∧
    (let s := onTwi { ctrl with txActive := true, cap := 2, sendbuf := { filled [1, 2] with lim := 2 } };
      s.twi.begun = true ∧ s.twi.txActive = true ∧
        (s.twi.sendbuf.mode = .drain ∨ s.twi.sendbuf.lim ≤ s.twi.sendbuf.pos)) := by
  repeat' (first | decide | constructor)

theorem witness_TwiEndTxStartsTransaction :
    (s0.hstate = .idle ∧ s0.twi.begun = false) ∧
    ((onTwi ctrl).hstate = .idle ∧ (onTwi ctrl).twi.begun = true ∧ (onTwi ctrl).twi.txActive = false) ∧
    (let s := onTwi { ctrl with txActive := true };
      s.twi.begun = true ∧ s.twi.txActive = true ∧ 33 > s.twi.cap ∧ 32 ≤ s.twi.cap ∧ s.twi.busIdle = true) ∧
    (let s := onTwi { busy with txActive := true };
      s.twi.begun = true ∧ s.twi.txActive = true ∧ 32 ≤ s.twi.cap ∧ s.twi.busIdle = false) := by
  decide

theorem witness_TwiRequestStartsRead :
    ((onTwi ctrl).twi.busIdle = true ∧ (onTwi ctrl).hstate = .idle ∧ (onTwi ctrl).twi.begun = true) ∧
    ((0x7F : Byte) < 0x80 ∧ (0x7F : Byte) ≤ 0x7F) ∧ (onTwi ctrl).twi.cap < 33 ∧ 0 < 32 ∧ 32 ≤ (onTwi ctrl).twi.cap ∧
    { onTwi ctrl with hstate := .wait .tRequest false (.twiRequest 0x7F 32) }.hstate =
      .wait .tRequest false (.twiRequest 0x7F 32) := by
  decide

theorem witness_TwiAvailableCountsReadable :
    let s := onTwi { ctrl with recvbuf := drained [1, 2, 3] 1 }
    s.twi.srs = 0 ∧ s.hstate = .idle ∧ s.twi.begun = true ∧
    { s with hstate := .wait .tAvailable true .twiAvailable }.hstate = .wait .tAvailable true .twiAvailable := by
  decide

theorem witness_TwiWaitsReplayHandler :
    let s := { onTwi { busy with eng := .none, wif := true, srs := 1 } with ie := false }
    (s.twi.busIdle = false ∧ s.twi.srs ≠ 0) ∧ (s.hstate = .idle ∧ s.twi.begun = true) ∧
    ((onTwi busy).ie = true ∧ (onTwi busy).twi.anyFlag = false) ∧
    (s.ie = false ∧ (s.twi.wif || s.twi.rif || s.twi.arbf || s.twi.berf) = true ∧ ∃ t, isrTwi s.twi = .ok t) ∧
    { s with hstate := .wait .tBeginTx false (.twiBeginTx 0x50) }.hstate = .wait .tBeginTx false (.twiBeginTx 0x50) := by
  repeat' (first | decide | rfl | constructor)

theorem witness_TwiReadAndPeekGiveNextByte :
    (s0.hstate = .idle ∧ s0.twi.begun = false) ∧
    (let s := onTwi { ctrl with recvbuf := drained [0xAA, 0xBB] 1 };
      s.hstate = .idle ∧ s.twi.begun = true ∧ s.twi.recvbuf.lim ≤ s.twi.cap ∧ s.twi.recvbuf.mode = .drain ∧
        s.twi.recvbuf.pos < s.twi.recvbuf.lim) ∧
    (let s := onTwi { ctrl with recvbuf := drained [0xAA, 0xBB] 2 };
      s.twi.begun = true ∧ (s.twi.recvbuf.mode = .fill ∨ s.twi.recvbuf.lim ≤ s.twi.recvbuf.pos)) := by
  decide

theorem witness_TwiQueriesOnlyAnswer : s0.hstate = .idle ∧ (onTwi busy).hstate = .idle := by decide

theorem witness_BusStimuliWhenEnabled :
    busy.eng = .addrW ∧ { busy with eng := .dataW }.eng = .dataW ∧ { busy with eng := .addrR }.eng = .addrR ∧
    { busy with eng := .recv }.eng = .recv ∧
    (let t := { busy with eng := .stop, tstate := .idle };
      t.begun = true ∧ t.busIdle = false ∧ t.eng = .stop) ∧
    (let t := { busy with eng := .none, tstate := .arbLost };
      t.begun = true ∧ t.busIdle = false ∧ t.eng = .none ∧ (t.tstate = .arbLost ∨ t.tstate = .busError) ∧
        t.wif = false ∧ t.rif = false ∧ t.arbf = false ∧ t.berf = false) ∧
    ctrl.eng = .none := by
  decide

theorem witness_TwiErrorBranchesRecord :
    (let s := onTwi { busy with eng := .none, arbf := true };
      s.ie = true ∧ s.twi.irqen = true ∧ s.twi.arbf = true) ∧
    (let s := onTwi { busy with eng := .none, berf := true };
      s.ie = true ∧ s.twi.irqen = true ∧ s.twi.arbf = false ∧ s.twi.berf = true) := by
  decide

theorem witness_TwiWriteBranchSendsNext :
    let base (s : State) : Prop :=
      s.ie = true ∧ s.twi.irqen = true ∧ s.twi.arbf = false ∧ s.twi.berf = false ∧ s.twi.wif = true
    let more (s : State) : Prop := s.twi.sendbuf.mode = .drain ∧ s.twi.sendbuf.pos < s.twi.sendbuf.lim
    let acked (t : Twi) : State := onTwi { t with eng := .none, wif := true }
    (let s := acked { busy with nackf := true };
      base s ∧ s.twi.nackf = true) ∧
    (let s := acked { busy with sendbuf := drained [1, 2] 1 };
      base s ∧ s.twi.nackf = false ∧ more s ∧ s.twi.sendbuf.lim ≤ s.twi.cap) ∧
    (let s := acked { busy with sendbuf := drained [1, 2] 2, srs := 1 };
      base s ∧ s.twi.nackf = false ∧ ¬ more s ∧ 0 < s.twi.srs) ∧
    (let s := acked { busy with sendbuf := drained [1, 2] 2 };
      base s ∧ s.twi.nackf = false ∧ ¬ more s ∧ s.twi.srs = 0) := by
  decide

theorem witness_TwiReadBranchKeepsByte :
    let base (s : State) : Prop := s.ie = true ∧ s.twi.irqen = true ∧ s.twi.arbf = false ∧ s.twi.berf = false ∧
      s.twi.wif = false ∧ s.twi.rif = true
    let got (n : Nat) : State := onTwi { busy with eng := .none, rif := true, srs := n }
    (base (got 2) ∧ (got 2).twi.recvbuf.Wf .recvbuf (got 2).twi.cap ∧ (got 2).twi.recvbuf.mode = .fill ∧
      (got 2).twi.recvbuf.pos < (got 2).twi.recvbuf.lim ∧ 1 < (got 2).twi.srs) ∧
    (base (got 1) ∧ (got 1).twi.recvbuf.Wf .recvbuf (got 1).twi.cap ∧ (got 1).twi.srs = 1) ∧
    (base (got 0) ∧ (got 0).twi.recvbuf.mode = .fill ∧ (got 0).twi.srs = 0) := by
  repeat' (first | decide | constructor)

/-! #### States that meet the invariant -/

/-- A channel in the middle of its work. -/
def liveChan : Uart :=
  { chan with
    rxb := ring [0x31, 0x32], dr := true, udrRx := 0x33
    txb := ring [0x41, 0x42], txshift := some 0x40, dreie := true, transmitting := true }

/-- The host idle with `IE = 1`, the channel busy, and the given controller. -/
def live (t : Twi) : State := { s0 with ie := true, uart := liveChan, twi := t }

/-- A write of two bytes composed. -/
def composed : Twi := { ctrl with txActive := true, sla := 0xA0, sendbuf := filled [1, 2] }

/-- The first data byte acknowledged. -/
def acked : Twi :=
  { busy with eng := .none, wif := true, tstate := .writingData, sendbuf := drained [1, 2] 1 }

/-- The transaction ended, and the bus not yet idle. -/
def stopped : Twi := { busy with eng := .stop, tstate := .idle, tresult := 1, sendbuf := drained [1, 2] 2 }

theorem liveChan_inv : liveChan.Inv cfg := by repeat' (first | decide | constructor)
theorem composed_inv : composed.Inv cfg := by repeat' (first | decide | constructor)
theorem acked_inv : acked.Inv cfg := by repeat' (first | decide | constructor)
theorem stopped_inv : stopped.Inv cfg := by repeat' (first | decide | constructor)

theorem live_inv {t : Twi} (h : t.Inv cfg) : (live t).Inv := ⟨liveChan_inv, h, trivial, Nat.zero_le _⟩

theorem witness_TransactionStateMachine :
    ((live acked).Inv ∧ (live acked).twi.anyFlag = true ∧ ∃ n, isrTwi (live acked).twi = .ok n) ∧
    ((live composed).Inv ∧ ∃ t, takeMove (.word .host 0x23000000) (live composed) = .next t ∧
      t.twi.tstate = .addressPending ∧ (live composed).twi.tstate ≠ .addressPending) :=
  ⟨⟨live_inv acked_inv, by decide, _, rfl⟩, live_inv composed_inv, _, rfl, by decide, by decide⟩

theorem witness_ReadyImpliesRecorded :
    (live stopped).Inv ∧ ∃ t, exec .evTwiBusIdle (live stopped) = .next t :=
  ⟨live_inv stopped_inv, _, rfl⟩

theorem witness_AvailableHangsAfterFailedRead :
    let s := { onTwi { busy with eng := .none, tstate := .arbLost, tresult := 3, srs := 2 } with
      hstate := .wait .tAvailable true .twiAvailable }
    s.hstate = .wait .tAvailable true .twiAvailable ∧ 0 < s.twi.srs ∧ (s.twi.eng = .none ∨ s.twi.eng = .stop) ∧
      s.twi.anyFlag = false ∧ ∃ t, runMoves [.word .bus 0x95000000, .poll] s = .next t :=
  ⟨rfl, by decide, by decide, by decide, _, rfl⟩

theorem witness_FirstFaultIsKept :
    (∃ t, takeMove (.word .host 0x15000041) { s0 with fault := 1 } = .next t ∧ { s0 with fault := 1 }.fault ≠ 0) ∧
    ∃ t, takeMove (.word .host 0x15000041) s0 = .next t ∧ t.fault ≠ s0.fault :=
  ⟨⟨_, rfl, by decide⟩, _, rfl, by decide⟩

theorem witness_RingRefinesBoundedQueue :
    (ring [1, 2, 3, 4, 5, 6, 7]).Wf .rxb 8 ∧ ({ storage := [], head := 1, tail := 1 } : RingBuffer).Wf .txb 2 := by
  repeat' (first | decide | constructor)

theorem witness_NearFullIsMarginToFull :
    (ring [1, 2, 3, 4]).Wf .rxb 8 ∧ (ring [1, 2, 3]).Wf .rxb 8 ∧ ([5, 6, 7] : List Byte).length = 3 := by
  repeat' (first | decide | constructor)

theorem witness_FlipBufferGivesBytesInOrder :
    ((filled []).data.wf .sendbuf 2 = true ∧ ([1, 2] : List Byte).length ≤ 2 ∧ ([1, 2] : List Byte).length = 2) ∧
    (drained [0xAA, 0xBB] 1).Wf .recvbuf 2 := by
  repeat' (first | decide | constructor)

theorem witness_InitialModeAfterReset :
    s0.cfg.ctsBound = true ∧ (∃ t, takeWord .line 0x80000041 s0 = .next t) ∧
    ∃ t, takeWord .line 0x83000001 s0 = .next t :=
  ⟨rfl, ⟨_, rfl⟩, _, rfl⟩

theorem witness_StepKeepsInvariant :
    (live acked).Inv ∧ (∃ t, step { live acked with sched := [.dispatch .twi] } = .next t) ∧
      { live acked with sched := [.dispatch .twi] }.Inv :=
  ⟨live_inv acked_inv, ⟨_, rfl⟩, liveChan_inv, acked_inv, trivial, by decide⟩

theorem witness_NoStepFaultsFromInvariant : { live acked with sched := [.poll] }.Inv :=
  ⟨liveChan_inv, acked_inv, trivial, by decide⟩

theorem witness_RingWriterDiscipline : ∃ t, takeMove (.dispatch .uartRx) (live ctrl) = .next t := ⟨_, rfl⟩

theorem witness_RtsChangesOnlyWhereStated :
    (∃ t, takeMove (.dispatch .uartRx) (onUart { chan with rxb := ring [1, 2, 3, 4], dr := true }) = .next t ∧
      chan.rtsAsserted = false ∧ t.uart.rtsAsserted = true) ∧
    ∃ t, takeMove (.word .host 0x14000000) (onUart { chan with rxb := ring [1, 2, 3], rtsAsserted := true }) = .next t ∧
      t.uart.rtsAsserted = false :=
  ⟨⟨_, rfl, rfl, rfl⟩, _, rfl, rfl⟩

/-- A list of moves that begin and end no channel. -/
theorem keepsChannel_of {ms : List Move}
    (h : (ms.all fun m => match m.instr with
      | some .uartEnd => false
      | some (.uartBegin _ _) => false
      | _ => true) = true) : KeepsChannel ms := by
  intro m hm
  have hm := List.all_eq_true.1 h m hm
  constructor
  · intro e; simp [e] at hm
  · intro frame baud e; simp [e] at hm

theorem witness_PeekThenReadSameByte :
    (live ctrl).uart.rxb.Wf .rxb (live ctrl).cfg.nRx ∧ (live ctrl).uart.rxb.empty = false ∧
    KeepsChannel [.dispatch .uartRx, .word .line 0x80000034] ∧
    (∀ m ∈ [Move.dispatch .uartRx, .word .line 0x80000034], m.instr ≠ some .uartRead) ∧
    ∃ s₁ s₂ t, exec .uartPeek (live ctrl) = .next s₁ ∧
      runMoves [.dispatch .uartRx, .word .line 0x80000034] s₁ = .next s₂ ∧ exec .uartRead s₂ = .next t :=
  ⟨liveChan_inv.rxb, by decide, keepsChannel_of (by decide), by decide, _, _, _, rfl, rfl, rfl⟩

/-- For both directions: the handlers run, a byte leaves the wire, the host writes and reads. -/
def busyRun : List Move :=
  [.dispatch .uartDre, .word .line 0x82000000, .word .host 0x15000043, .dispatch .uartRx, .word .host 0x14000000]

theorem witness_TransmitPathIsFifo :
    (live composed).Inv ∧ (live composed).notEnding ∧ KeepsChannel busyRun ∧
      ∃ t, runMoves busyRun (live composed) = .next t :=
  ⟨live_inv composed_inv, (by intro e c h; cases h), keepsChannel_of (by decide), _, rfl⟩

theorem witness_ReceivePathIsFifo :
    (live stopped).Inv ∧ (live stopped).notEnding ∧ KeepsChannel busyRun ∧
      ∃ t, runMoves busyRun (live stopped) = .next t :=
  ⟨live_inv stopped_inv, (by intro e c h; cases h), keepsChannel_of (by decide), _, rfl⟩

end Sys2Proof.Tests
end

section
/-! PROOFS. The parameters and the recorded fault (10_state.md R23, R62): every move either keeps both, or is
the fault response of an idle host (60_exceptions.md R221). -/

namespace Sys2Proof.Machine

/-! ### Keeping the parameters and `FAULT` -/

/-- `t` has the parameters and the `FAULT` of `s`: what every update but `State.raise` guarantees. -/
structure State.KeepsRecord (s t : State) : Prop where
  cfg : t.cfg = s.cfg
  fault : t.fault = s.fault

namespace State.KeepsRecord

variable {s t : State}

theorem refl (s : State) : s.KeepsRecord s := ⟨rfl, rfl⟩

theorem setUart (h : s.KeepsRecord t) (u : Uart) : s.KeepsRecord (t.setUart u) := ⟨h.cfg, h.fault⟩

theorem setTwi (h : s.KeepsRecord t) (w : Twi) : s.KeepsRecord (t.setTwi w) := ⟨h.cfg, h.fault⟩

theorem setHost (h : s.KeepsRecord t) (k : HostState) : s.KeepsRecord (t.setHost k) := ⟨h.cfg, h.fault⟩

theorem respond (h : s.KeepsRecord t) (v : Word) : s.KeepsRecord (t.respond v) := ⟨h.cfg, h.fault⟩

end State.KeepsRecord

open State.KeepsRecord (refl)

/-! ### Handlers and waits -/

theorem runHandler_keepsRecord {src : IrqSource} {s t : State} (h : runHandler src s = .ok t) :
    s.KeepsRecord t := by
  rcases runHandler_eq_ok h with ⟨u, rfl, -⟩ | ⟨w, rfl, -, -⟩
  · exact (refl s).setUart u
  · exact (refl s).setTwi w

theorem replayDre_keepsRecord {s t : State} (h : replayDre s = .ok t) : s.KeepsRecord t := by
  rcases replayDre_eq_ok h with rfl | ⟨u, -, rfl⟩
  · exact refl _
  · exact (refl s).setUart u

theorem twiRetry_keepsRecord {e : Bool} {s t : State} (h : twiRetry e s = .ok t) : s.KeepsRecord t := by
  rcases twiRetry_eq_ok h with rfl | ⟨w, -, rfl⟩
  · exact refl _
  · exact (refl s).setTwi w

/-- The retry of each of the six waits (R119, R120). -/
theorem waitRetry_keepsRecord {kind : WaitKind} {cmd : Instr} {w : Waiting} {e : Bool} {s t : State}
    (hw : waitingOf kind cmd = some w) (h : w.retry e s = .ok t) : s.KeepsRecord t := by
  rcases waitingOf_eq_some hw with ⟨data, -, -, rfl⟩ | ⟨-, -, rfl⟩ | ⟨-, -, rfl⟩ | ⟨addr, -, -, rfl⟩ |
    ⟨addr, count, -, -, rfl⟩ | ⟨-, -, rfl⟩
  case inl =>
    rcases uartWriteRetry_eq_ok h with ⟨-, rfl⟩ | ⟨-, r⟩
    · exact (refl s).setUart _
    · exact replayDre_keepsRecord r
  case inr.inl =>
    rcases uartFlushRetry_eq_ok h with ⟨-, rfl⟩ | ⟨-, r⟩
    · exact refl _
    · exact replayDre_keepsRecord r
  case inr.inr.inl =>
    obtain rfl := Except.ok.inj h
    exact refl _
  all_goals exact twiRetry_keepsRecord h

/-- The post-part of each of the six waits responds and raises no fault (R118). -/
theorem waitPost_keepsRecord {kind : WaitKind} {cmd : Instr} {w : Waiting} {s t : State}
    (hw : waitingOf kind cmd = some w) (h : w.post s = .ok t) : s.KeepsRecord t := by
  rcases waitingOf_eq_some hw with ⟨data, -, -, rfl⟩ | ⟨-, -, rfl⟩ | ⟨-, -, rfl⟩ | ⟨addr, -, -, rfl⟩ |
    ⟨addr, count, -, -, rfl⟩ | ⟨-, -, rfl⟩
  · obtain ⟨rb, -, rfl⟩ := uartWritePost_eq_ok h
    exact ((refl s).setUart _).respond _
  · obtain rfl := Except.ok.inj h
    exact ((refl s).setUart _).respond _
  · obtain rfl := Except.ok.inj h
    exact ((refl s).setUart _).respond _
  · rcases twiBeginTxPost_eq_ok h with ⟨-, rfl⟩ | ⟨-, rfl⟩
    · exact ((refl s).setTwi _).respond _
    · exact (refl s).respond _
  · rcases twiRequestPost_eq_ok h with ⟨st, -, rfl⟩ | ⟨-, -, -, rfl⟩
    · exact (refl s).respond _
    · exact ((refl s).setTwi _).respond _
  · obtain rfl := Except.ok.inj h
    exact (refl s).respond _

theorem pollHost_keepsRecord {s t : State} (h : pollHost s = .next t) : s.KeepsRecord t := by
  obtain ⟨kind, e, cmd, w, -, hw, p⟩ := pollHost_eq_next h
  rcases Waiting.poll_eq_ok p with ⟨-, t', post, rfl⟩ | ⟨-, retry⟩
  · exact (waitPost_keepsRecord hw post).setHost _
  · exact waitRetry_keepsRecord hw retry

theorem dispatch_keepsRecord {src : IrqSource} {s t : State} (h : dispatch src s = .next t) :
    s.KeepsRecord t := by
  obtain ⟨-, -, r⟩ := dispatch_eq_next h
  exact runHandler_keepsRecord r

/-! ### Instructions -/

/-- `t` keeps the parameters and `FAULT` of `s`, or it is the fault response of an idle host: the two things
a move can do to them. -/
def State.KeepsOrRaises (s t : State) : Prop :=
  s.KeepsRecord t ∨ (s.hstate = .idle ∧ ∃ f, t = s.raise f)

/-- A stimulus writes one device and nothing else (R102). -/
theorem exec_stimulus_keepsRecord {i : Instr} {s t : State} (hi : i.origin ≠ .host)
    (h : exec i s = .next t) : s.KeepsRecord t := by
  cases i with
  | evRxByte data =>
    obtain rfl := execEvRxByte_next h
    exact (refl s).setUart _
  | evRxSpurious =>
    obtain ⟨-, rfl⟩ := execEvRxSpurious_next h
    exact (refl s).setUart _
  | evTxShiftDone =>
    obtain ⟨-, rfl⟩ := execEvTxShiftDone_next h
    exact (refl s).setUart _
  | evCts level =>
    obtain ⟨-, -, rfl⟩ := execEvCts_next h
    exact (refl s).setUart _
  | evTwiAck =>
    obtain ⟨-, rfl⟩ := execEvTwiAck_next h
    exact (refl s).setTwi _
  | evTwiNack =>
    obtain ⟨-, rfl⟩ := execEvTwiNack_next h
    exact (refl s).setTwi _
  | evTwiRxbyte data =>
    obtain ⟨-, rfl⟩ := execEvTwiRxbyte_next h
    exact (refl s).setTwi _
  | evTwiArblost =>
    obtain ⟨-, rfl⟩ := execEvTwiArblost_next h
    exact (refl s).setTwi _
  | evTwiBuserr =>
    obtain ⟨-, rfl⟩ := execEvTwiBuserr_next h
    exact (refl s).setTwi _
  | evTwiBusIdle =>
    obtain ⟨-, rfl⟩ := execEvTwiBusIdle_next h
    exact (refl s).setTwi _
  | _ => exact absurd rfl hi

/-- The commands whose rules name a fault (R222). -/
def mayRaise : Instr → Bool
  | .uartWrite _ | .twiBegin _ _ _ => true
  | .twiBeginTx _ | .twiWrite _ | .twiEndTx _ | .twiRequest _ _ | .twiAvailable | .twiRead | .twiPeek => true
  | _ => false

/-- A command that names no fault records none (R222). -/
theorem exec_command_keepsRecord {i : Instr} {s t : State} (hi : i.origin = .host) (hr : mayRaise i = false)
    (h : exec i s = .next t) : s.KeepsRecord t := by
  cases i with
  | sysCli =>
    obtain ⟨-, rfl⟩ := execSysCli_next h
    exact ⟨rfl, rfl⟩
  | sysSei =>
    obtain ⟨-, rfl⟩ := execSysSei_next h
    exact ⟨rfl, rfl⟩
  | uartBegin frame baud =>
    obtain ⟨-, rfl | ⟨v, -, rfl⟩⟩ := execUartBegin_next h
    · exact (refl s).respond _
    · exact ((refl s).setUart _).respond _
  | uartEnd =>
    obtain ⟨-, rfl | ⟨-, -, rfl⟩⟩ := execUartEnd_next h
    · exact ((refl s).setUart _).respond _
    · exact (refl s).setHost _
  | uartAvailable =>
    obtain ⟨-, rfl⟩ := execUartAvailable_next h
    exact (refl s).respond _
  | uartPeek =>
    obtain ⟨-, b, -, rfl⟩ := execUartPeek_next h
    exact (refl s).respond _
  | uartRead =>
    obtain ⟨-, ⟨-, rfl⟩ | ⟨-, b, rb, -, rfl⟩⟩ := execUartRead_next h
    · exact (refl s).respond _
    · exact ((refl s).setUart _).respond _
  | uartFlush =>
    obtain ⟨-, rfl | ⟨-, -, t', r, rfl⟩⟩ := execUartFlush_next h
    · exact ((refl s).setUart _).respond _
    · exact (waitRetry_keepsRecord (kind := .uFlush) (cmd := .uartFlush) rfl r).setHost _
  | twiFlush =>
    obtain ⟨-, rfl⟩ := execTwiFlush_next h
    exact (refl s).respond _
  | twiReady =>
    obtain ⟨-, rfl⟩ := execTwiReady_next h
    exact (refl s).respond _
  | twiResult =>
    obtain ⟨-, rfl⟩ := execTwiResult_next h
    exact (refl s).respond _
  | twiWrerr =>
    obtain ⟨-, rfl⟩ := execTwiWrerr_next h
    exact (refl s).respond _
  | evRxByte _ | evRxSpurious | evTxShiftDone | evCts _ => cases hi
  | evTwiAck | evTwiNack | evTwiRxbyte _ | evTwiArblost | evTwiBuserr | evTwiBusIdle => cases hi
  | _ => cases hr

/-- A command that names a fault raises it, or runs the rest of its body, which records none (R222). -/
theorem exec_mayRaise_keepsOrRaises {i : Instr} {s t : State} (hr : mayRaise i = true)
    (h : exec i s = .next t) : s.KeepsOrRaises t := by
  cases i with
  | uartWrite data =>
    obtain ⟨idle, ⟨-, rfl⟩ | ⟨-, -, p⟩ | ⟨-, -, t', r, rfl⟩⟩ := execUartWrite_next h
    · exact .inr ⟨idle, _, rfl⟩
    · exact .inl (waitPost_keepsRecord (kind := .uWrite) (cmd := .uartWrite data) rfl p)
    · exact .inl ((waitRetry_keepsRecord (kind := .uWrite) (cmd := .uartWrite data) rfl r).setHost _)
  | twiBegin own speed cap =>
    obtain ⟨idle, rfl | ⟨st, -, rfl⟩ | ⟨-, -, -, -, rfl⟩⟩ := execTwiBegin_next h
    · exact .inr ⟨idle, _, rfl⟩
    · exact .inl ((refl s).respond _)
    · exact .inl (((refl s).setTwi _).respond _)
  | twiBeginTx addr =>
    obtain ⟨idle, ⟨-, rfl⟩ | ⟨-, -, p⟩ | ⟨-, -, t', r, rfl⟩⟩ := execTwiBeginTx_next h
    · exact .inr ⟨idle, _, rfl⟩
    · exact .inl (waitPost_keepsRecord (kind := .tBeginTx) (cmd := .twiBeginTx addr) rfl p)
    · exact .inl ((twiRetry_keepsRecord r).setHost _)
  | twiWrite data =>
    obtain ⟨idle, ⟨-, rfl⟩ | ⟨-, ⟨st, -, rfl⟩ | ⟨-, sb, -, rfl⟩⟩⟩ := execTwiWrite_next h
    · exact .inr ⟨idle, _, rfl⟩
    · exact .inl (((refl s).setTwi _).respond _)
    · exact .inl (((refl s).setTwi _).respond _)
  | twiEndTx count =>
    obtain ⟨idle, ⟨f, -, rfl⟩ | ⟨st, -, rfl⟩ | ⟨-, -, -, -, rfl⟩⟩ := execTwiEndTx_next h
    · exact .inr ⟨idle, _, rfl⟩
    · exact .inl ((refl s).respond _)
    · exact .inl (((refl s).setTwi _).respond _)
  | twiRequest addr count =>
    obtain ⟨idle, ⟨-, rfl⟩ | ⟨-, -, p⟩ | ⟨-, -, t', r, rfl⟩⟩ := execTwiRequest_next h
    · exact .inr ⟨idle, _, rfl⟩
    · exact .inl (waitPost_keepsRecord (kind := .tRequest) (cmd := .twiRequest addr count) rfl p)
    · exact .inl ((twiRetry_keepsRecord r).setHost _)
  | twiAvailable =>
    obtain ⟨idle, ⟨-, rfl⟩ | ⟨-, -, rfl⟩ | ⟨-, -, t', r, rfl⟩⟩ := execTwiAvailable_next h
    · exact .inr ⟨idle, _, rfl⟩
    · exact .inl ((refl s).respond _)
    · exact .inl ((twiRetry_keepsRecord r).setHost _)
  | twiRead =>
    obtain ⟨idle, ⟨-, rfl⟩ | ⟨-, b, rb, -, rfl⟩⟩ := execTwiRead_next h
    · exact .inr ⟨idle, _, rfl⟩
    · exact .inl (((refl s).setTwi _).respond _)
  | twiPeek =>
    obtain ⟨idle, ⟨-, rfl⟩ | ⟨-, b, -, rfl⟩⟩ := execTwiPeek_next h
    · exact .inr ⟨idle, _, rfl⟩
    · exact .inl ((refl s).respond _)
  | _ => cases hr

theorem exec_keepsOrRaises {i : Instr} {s t : State} (h : exec i s = .next t) : s.KeepsOrRaises t := by
  by_cases hi : i.origin = .host
  · cases hr : mayRaise i
    · exact .inl (exec_command_keepsRecord hi hr h)
    · exact exec_mayRaise_keepsOrRaises hr h
  · exact .inl (exec_stimulus_keepsRecord hi h)

/-! ### Moves -/

theorem takeMove_keepsOrRaises {m : Move} {s t : State} (h : takeMove m s = .next t) : s.KeepsOrRaises t := by
  rcases takeMove_eq_next h with ⟨o, w, i, -, -, run⟩ | ⟨w, e, -, -, idle, rfl⟩ | ⟨-, poll⟩ | ⟨src, -, disp⟩
  · exact exec_keepsOrRaises run
  · exact .inr ⟨idle, _, rfl⟩
  · exact .inl (pollHost_keepsRecord poll)
  · exact .inl (dispatch_keepsRecord disp)

namespace State.KeepsOrRaises

variable {s t : State}

theorem cfg (h : s.KeepsOrRaises t) : t.cfg = s.cfg := by
  rcases h with keeps | ⟨-, f, rfl⟩
  · exact keeps.cfg
  · exact s.raise_cfg f

/-- The first fault is kept: a later one only answers (R221). -/
theorem fault_of_ne_zero (h : s.KeepsOrRaises t) (hf : s.fault ≠ 0) : t.fault = s.fault := by
  rcases h with keeps | ⟨-, f, rfl⟩
  · exact keeps.fault
  · rw [State.raise_fault, if_neg hf]

/-- A change of `FAULT` is the first fault response, of an idle host (R221). -/
theorem raise_of_fault_ne (h : s.KeepsOrRaises t) (hne : t.fault ≠ s.fault) :
    s.fault = 0 ∧ s.hstate = .idle ∧ ∃ f, t = s.raise f := by
  have zero : s.fault = 0 := by
    by_contra hf
    exact hne (h.fault_of_ne_zero hf)
  rcases h with keeps | ⟨idle, raised⟩
  · exact absurd keeps.fault hne
  · exact ⟨zero, idle, raised⟩

end State.KeepsOrRaises

theorem FaultCode.code_cases (f : FaultCode) : f.code = 1 ∨ f.code = 2 ∨ f.code = 3 := by
  cases f <;> decide

/-- The first fault response, with its code read from the new `FAULT` (R103, R221). -/
theorem State.raise_eq_of_fault_zero {s : State} (hf : s.fault = 0) (f : FaultCode) :
    (s.raise f).fault = f.code ∧
      s.raise f = { s with fault := f.code, resp := 0x80000000#32 ||| f.code.setWidth 32 } := by
  simp only [State.raise, hf, if_true, respFault, and_self]

/-! ### The statements -/

/-- Settles O12: a step is a move on the state without that move scheduled, and neither touches the
parameters. -/
theorem noStepChangesParameters : Obligations.NoStepChangesParameters := by
  intro s t h
  cases sched : s.sched with
  | nil =>
    rw [step_of_no_sched sched] at h
    cases h
    rfl
  | cons m rest =>
    rw [step_of_sched sched] at h
    exact (takeMove_keepsOrRaises h).cfg

/-- Settles O47: the only move that writes `FAULT` is the fault response of an idle host, which writes it
only when it is 0. -/
theorem firstFaultIsKept : Obligations.FirstFaultIsKept := by
  intro m s t h
  have effect := takeMove_keepsOrRaises h
  refine ⟨effect.fault_of_ne_zero, fun hne => ?_⟩
  obtain ⟨zero, idle, f, rfl⟩ := effect.raise_of_fault_ne hne
  obtain ⟨code, whole⟩ := State.raise_eq_of_fault_zero zero f
  rw [code]
  exact ⟨zero, idle, f.code_cases, whole⟩

end Sys2Proof.Machine
end

section
/-! PROOFS. Storing a list of bytes in a ring, and the margin to full (20_memory.md R68, R69). -/

namespace Sys2Proof.Machine

variable {id : MemId} {n : Nat} {rb : RingBuffer}

/-- Cutting at `k` before appending changes nothing below the cut at `k`. -/
theorem take_append_take {α : Type} (k : Nat) (l m : List α) : (l.take k ++ m).take k = (l ++ m).take k := by
  have e : k - min k l.length = k - l.length := by omega
  rw [List.take_append, List.take_append, List.take_take, min_self, List.length_take, e]

/-- `Store` on a legal ring: the contents with the byte appended, cut at `N - 1` bytes. A full ring, which
drops the byte, is the case where the cut removes it (R69). -/
theorem RingBuffer.store_of_wf (w : rb.Wf id n) (b : Byte) :
    ∃ rb', rb.store id n b = .ok rb' ∧ rb'.Wf id n ∧
      rb'.contents id n = (rb.contents id n ++ [b]).take (n - 1) := by
  have full := RingBuffer.full_iff_occ w.head_lt w.tail_lt
  have len := rb.length_contents id n
  cases f : rb.full n with
  | true =>
    have occ : rb.occ n = n - 1 := full.1 f
    exact ⟨rb, store_of_full f b, w, (List.take_left' (len.trans occ)).symm⟩
  | false =>
    have room : rb.occ n ≠ n - 1 := fun e => by simp [full.2 e] at f
    have stored := store_of_room (id := id) f w.head_lt b
    refine ⟨_, stored, store_wf w stored, ?_⟩
    have le := w.occ_le
    rw [contents_append w f, List.take_of_length_le]
    rw [List.length_append, len, List.length_singleton]
    omega

/-- Storing the bytes of a list one by one: the contents with the list appended, cut at `N - 1` bytes. -/
theorem RingBuffer.runOps_stores (w : rb.Wf id n) (bs : List Byte) :
    ∃ rb', rb.runOps id n (bs.map .store) = .ok ([], rb') ∧ rb'.Wf id n ∧
      rb'.contents id n = (rb.contents id n ++ bs).take (n - 1) := by
  induction bs generalizing rb with
  | nil =>
    refine ⟨rb, rfl, w, ?_⟩
    rw [List.append_nil, List.take_of_length_le (by rw [length_contents]; exact w.occ_le)]
  | cons b bs ih =>
    obtain ⟨rb₁, stored, w₁, c₁⟩ := store_of_wf w b
    obtain ⟨rb₂, run, w₂, c₂⟩ := ih w₁
    refine ⟨rb₂, ?_, w₂, ?_⟩
    · rw [List.map_cons, runOps, stored]
      exact run
    · rw [c₂, c₁, take_append_take, List.append_assoc, List.singleton_append]

/-- Storing the bytes of a list one by one adds its length to `Occ`, up to `N - 1`. -/
theorem RingBuffer.occ_runOps_stores (w : rb.Wf id n) (bs : List Byte) :
    ∃ rb', rb.runOps id n (bs.map .store) = .ok ([], rb') ∧ rb'.Wf id n ∧
      rb'.occ n = min (n - 1) (rb.occ n + bs.length) := by
  obtain ⟨rb', run, w', c⟩ := runOps_stores w bs
  refine ⟨rb', run, w', ?_⟩
  rw [← length_contents id n rb', c, List.length_take, List.length_append, length_contents]

theorem RingBuffer.nearFull_iff {m : Nat} : rb.nearFull n m = true ↔ rb.occ n + m ≥ n - 1 := by
  simp [RingBuffer.nearFull]

/-- Settles O49: `m` stores take `Occ` to `min (N - 1) (Occ + m)`, and the ring is full exactly when that is
`N - 1`. -/
theorem nearFullIsMarginToFull : Obligations.NearFullIsMarginToFull := by
  rintro id n m rb bs w rfl
  obtain ⟨rb', run, w', occ⟩ := RingBuffer.occ_runOps_stores w bs
  refine ⟨RingBuffer.nearFull_iff, [], rb', run, ?_⟩
  rw [RingBuffer.nearFull_iff, RingBuffer.full_iff_occ w'.head_lt w'.tail_lt, occ]
  exact min_eq_left_iff.symm

end Sys2Proof.Machine
end

section
/-! PROOFS. What the decoder accepts, unit by unit (30_encoding.md R90 to R100): the must-be-zero bits of each
format, the operations of each host unit, and the words that a mask and a pattern describe. -/

namespace Sys2Proof

/-! ### Words given by a mask and a pattern -/

/-- Where a mask is all ones, a word that matches a pattern has the pattern's bits. -/
theorem slice_of_masked {w mask pattern : Word} {a k : Nat} (h : w &&& mask = pattern)
    (ones : mask.extractLsb' a k = BitVec.allOnes k) : w.extractLsb' a k = pattern.extractLsb' a k := by
  rw [← h, BitVec.extractLsb'_and, ones, BitVec.and_allOnes]

/-- The outer fields of a word that matches a pattern, for a mask that reads both of them (R90). -/
theorem fields_of_masked {w mask pattern : Word} (h : w &&& mask = pattern)
    (unit : unitField mask = BitVec.allOnes 4) (op : opField mask = BitVec.allOnes 4) :
    unitField w = unitField pattern ∧ opField w = opField pattern :=
  ⟨slice_of_masked h unit, slice_of_masked h op⟩

/-! ### Formats (R92) -/

@[simp] theorem ifZero_eq_ok_iff {zero : Bool} {i j : Instr} : ifZero zero i = .ok j ↔ zero = true ∧ i = j := by
  cases zero <;> simp [ifZero]

@[simp] theorem formatN_eq_ok {w : Word} {i j : Instr} :
    formatN w i = .ok j ↔ w.extractLsb' 0 24 = 0 ∧ i = j := by
  simp [formatN]

@[simp] theorem formatByte_eq_ok {w : Word} {i j : Instr} :
    formatByte w i = .ok j ↔ w.extractLsb' 8 16 = 0 ∧ i = j := by
  simp [formatByte]

@[simp] theorem formatC_eq_ok {w : Word} {i j : Instr} :
    formatC w i = .ok j ↔ w.extractLsb' 12 12 = 0 ∧ i = j := by
  simp [formatC]

@[simp] theorem formatRQ_eq_ok {w : Word} {i j : Instr} :
    formatRQ w i = .ok j ↔ w.extractLsb' 8 4 = 0 ∧ i = j := by
  simp [formatRQ]

@[simp] theorem formatL_eq_ok {w : Word} {i j : Instr} :
    formatL w i = .ok j ↔ w.extractLsb' 1 23 = 0 ∧ i = j := by
  simp [formatL]

/-! ### What each unit accepts -/

/-- The `SYS` unit accepts its two operations, with no operand (R94). -/
theorem decodeSys_eq_ok {w : Word} {i : Instr} (h : decodeSys w = .ok i) :
    (opField w = 0x1 ∨ opField w = 0x2) ∧ w.extractLsb' 0 24 = 0 := by
  unfold decodeSys at h
  split at h
  case h_1 op => exact ⟨.inl op, (formatN_eq_ok.1 h).1⟩
  case h_2 op => exact ⟨.inr op, (formatN_eq_ok.1 h).1⟩
  case h_3 => cases h

/-- The `UART` unit accepts operations 0 to 6. Operation 0 uses all 24 operand bits, operation 5 the low
eight, the others none (R95). -/
theorem decodeUart_eq_ok {w : Word} {i : Instr} (h : decodeUart w = .ok i) :
    (opField w).toNat ≤ 0x6 ∧
      (opField w ≠ 0x0 → opField w ≠ 0x5 → w.extractLsb' 0 24 = 0) ∧
      (opField w = 0x5 → w.extractLsb' 8 16 = 0) := by
  unfold decodeUart at h
  split at h
  case h_1 op => simp [op]
  case h_2 op | h_3 op | h_4 op | h_5 op | h_7 op => simp [op, (formatN_eq_ok.1 h).1]
  case h_6 op => simp [op, (formatByte_eq_ok.1 h).1]
  case h_8 => cases h

/-- The `TWI` unit accepts operations 0 to 11. Operation 0 uses all 24 operand bits, 1 and 2 the low eight,
3 the low twelve, 4 all but bits 11 to 8, the others none (R96). -/
theorem decodeTwi_eq_ok {w : Word} {i : Instr} (h : decodeTwi w = .ok i) :
    (opField w).toNat ≤ 0xB ∧
      (0x4 < (opField w).toNat → w.extractLsb' 0 24 = 0) ∧
      (opField w = 0x1 ∨ opField w = 0x2 → w.extractLsb' 8 16 = 0) ∧
      (opField w = 0x3 → w.extractLsb' 12 12 = 0) ∧
      (opField w = 0x4 → w.extractLsb' 8 4 = 0) := by
  unfold decodeTwi at h
  split at h
  case h_1 op => simp [op]
  case h_2 op | h_3 op => simp [op, (formatByte_eq_ok.1 h).1]
  case h_4 op => simp [op, (formatC_eq_ok.1 h).1]
  case h_5 op => simp [op, (formatRQ_eq_ok.1 h).1]
  case h_13 => cases h
  all_goals next op => simp [op, (formatN_eq_ok.1 h).1]

/-- The `LINE` unit accepts only stimuli of the Line (R97). -/
theorem decodeLine_origin {w : Word} {i : Instr} (h : decodeLine w = .ok i) : i.origin = .line := by
  unfold decodeLine at h
  split at h
  case h_1 | h_2 | h_3 | h_4 => obtain ⟨-, rfl⟩ := ifZero_eq_ok h; rfl
  case h_5 => cases h

/-- The `BUS` unit accepts only stimuli of the Bus (R98). -/
theorem decodeBus_origin {w : Word} {i : Instr} (h : decodeBus w = .ok i) : i.origin = .bus := by
  unfold decodeBus at h
  split at h
  case h_1 | h_2 | h_3 | h_4 | h_5 | h_6 => obtain ⟨-, rfl⟩ := ifZero_eq_ok h; rfl
  case h_7 => cases h

/-! ### What `decode` accepts -/

/-- A word decodes for an issuer exactly when its row is one of that issuer (R99). -/
theorem decode_eq_ok {o : Origin} {w : Word} {i : Instr} :
    decode o w = .ok i ↔ decodeWord w = .ok i ∧ i.origin = o := by
  unfold decode
  cases decodeWord w with
  | error e => simp
  | ok j =>
    by_cases c : j.origin = o
    · simp only [c, if_true, Except.ok.injEq]
      exact ⟨fun e => ⟨e, e ▸ c⟩, And.left⟩
    · simp only [c, if_false, reduceCtorEq, Except.ok.injEq, false_iff]
      rintro ⟨rfl, e⟩
      exact c e

/-- A host word that decodes is of the `SYS`, the `UART` or the `TWI` unit, and that unit accepts it
(R91, R99). -/
theorem decode_host_eq_ok {w : Word} {i : Instr} (h : decode .host w = .ok i) :
    (unitField w = 0x0 ∧ decodeSys w = .ok i) ∨ (unitField w = 0x1 ∧ decodeUart w = .ok i) ∨
      (unitField w = 0x2 ∧ decodeTwi w = .ok i) := by
  obtain ⟨row, host⟩ := decode_eq_ok.1 h
  unfold decodeWord at row
  split at row
  case h_1 unit => exact .inl ⟨unit, row⟩
  case h_2 unit => exact .inr (.inl ⟨unit, row⟩)
  case h_3 unit => exact .inr (.inr ⟨unit, row⟩)
  case h_4 => cases host.symm.trans (decodeLine_origin row)
  case h_5 => cases host.symm.trans (decodeBus_origin row)
  case h_6 => cases row

theorem decode_host_of_sys {w : Word} {i : Instr} (unit : unitField w = 0x0) (h : decode .host w = .ok i) :
    decodeSys w = .ok i := by
  simpa [unit] using decode_host_eq_ok h

theorem decode_host_of_uart {w : Word} {i : Instr} (unit : unitField w = 0x1) (h : decode .host w = .ok i) :
    decodeUart w = .ok i := by
  simpa [unit] using decode_host_eq_ok h

theorem decode_host_of_twi {w : Word} {i : Instr} (unit : unitField w = 0x2) (h : decode .host w = .ok i) :
    decodeTwi w = .ok i := by
  simpa [unit] using decode_host_eq_ok h

/-- A word is illegal if every instruction it could decode to leads to a contradiction. -/
theorem decode_eq_error_of {o : Origin} {w : Word} (h : ∀ i, decode o w = .ok i → False) :
    ∃ e, decode o w = .error e := by
  cases d : decode o w with
  | ok i => exact (h i d).elim
  | error e => exact ⟨e, rfl⟩

end Sys2Proof

namespace Sys2Proof.Machine

/-! ### Issuing an illegal word -/

/-- An idle host that issues an illegal word is answered with the fault of R100. -/
theorem takeWord_host_of_illegal {w : Word} {e : DecodeError} {s : State} (h : decode .host w = .error e)
    (idle : s.hstate = .idle) : takeWord .host w s = .next (s.raise .illegalCommand) := by
  simp only [takeWord, issueHost, h, hostCommand_of_idle idle, toOutcome_ok]

/-- The fault response `ILLEGAL_COMMAND` (R100, R221). -/
theorem State.raise_illegalCommand (s : State) :
    s.raise .illegalCommand = { s with fault := if s.fault = 0 then 1 else s.fault, resp := 0x80000001 } := rfl

/-- Settles O5: an illegal word is answered by the fault response, and each clause that calls a word illegal
contradicts what the word's unit accepts. -/
theorem illegalHostWordFaults : Obligations.IllegalHostWordFaults := by
  refine ⟨fun w s e illegal idle => ?_, ⟨.reservedOp, rfl⟩, fun w sys uart twi => ?_, fun w unit cli sei => ?_,
    fun w unit reserved => ?_, fun w unit reserved => ?_, fun w unit operand => ?_,
    fun w unit begins writes operand => ?_, fun w unit writes operand => ?_, fun w unit query operand => ?_,
    fun w unit op operand => ?_, fun w unit op operand => ?_, fun w unit op operand => ?_⟩
  · rw [takeWord_host_of_illegal illegal idle, State.raise_illegalCommand]
  all_goals refine decode_eq_error_of fun i h => ?_
  · rcases decode_host_eq_ok h with ⟨unit, -⟩ | ⟨unit, -⟩ | ⟨unit, -⟩
    · exact sys unit
    · exact uart unit
    · exact twi unit
  · obtain ⟨op, -⟩ := decodeSys_eq_ok (decode_host_of_sys unit h)
    exact op.elim cli sei
  · obtain ⟨le, -, -⟩ := decodeUart_eq_ok (decode_host_of_uart unit h)
    exact le.not_gt reserved
  · obtain ⟨le, -⟩ := decodeTwi_eq_ok (decode_host_of_twi unit h)
    exact le.not_gt reserved
  · obtain ⟨-, zero⟩ := decodeSys_eq_ok (decode_host_of_sys unit h)
    exact operand zero
  · obtain ⟨-, zero, -⟩ := decodeUart_eq_ok (decode_host_of_uart unit h)
    exact operand (zero begins writes)
  · obtain ⟨-, -, zero⟩ := decodeUart_eq_ok (decode_host_of_uart unit h)
    exact operand (zero writes)
  · obtain ⟨-, zero, -⟩ := decodeTwi_eq_ok (decode_host_of_twi unit h)
    exact operand (zero query)
  · obtain ⟨-, -, zero, -⟩ := decodeTwi_eq_ok (decode_host_of_twi unit h)
    exact operand (zero op)
  · obtain ⟨-, -, -, zero, -⟩ := decodeTwi_eq_ok (decode_host_of_twi unit h)
    exact operand (zero op)
  · obtain ⟨-, -, -, -, zero⟩ := decodeTwi_eq_ok (decode_host_of_twi unit h)
    exact operand (zero op)

end Sys2Proof.Machine
end

section
/-! PROOFS. The stimuli of the Line and of the Bus (42_uart_events.md R151 to R153, 44_twi_events.md R196 to
R201): the words that encode them, when each is enabled, and what it does. -/

namespace Sys2Proof.Machine

/-! ### Encoding lines -/

/-- An encoding line whose mask is all ones describes one word. -/
theorem decodesAs_of_word {o : Origin} {pattern : Word} {i : Instr} (h : decode o pattern = .ok i) :
    DecodesAs o 0xFFFFFFFF pattern (fun _ => i) := by
  intro w eq
  obtain rfl : w = pattern := (BitVec.and_allOnes (x := w)).symm.trans eq
  exact h

theorem evCts_decodesAs : DecodesAs .line 0xFFFFFFFE 0x83000000 (fun w => .evCts (w.getLsbD 0)) := by
  intro w h
  obtain ⟨unit, op⟩ : unitField w = 0x8 ∧ opField w = 0x3 := fields_of_masked h rfl rfl
  have zero : w.extractLsb' 1 23 = 0 := slice_of_masked h rfl
  have row : decodeWord w = formatL w (.evCts (levelField w == 1#1)) := by
    simp [decodeWord, unit, decodeLine, op]
  have level : (levelField w == 1#1) = w.getLsbD 0 := (BitVec.getLsbD_eq_extractLsb' w 0).symm
  rw [decode_eq_ok, row, formatL_eq_ok, level]
  exact ⟨⟨zero, rfl⟩, rfl⟩

theorem evTwiRxbyte_decodesAs :
    DecodesAs .bus 0xFFFFFF00 0x92000000 (fun w => .evTwiRxbyte (w.extractLsb' 0 8)) := by
  intro w h
  obtain ⟨unit, op⟩ : unitField w = 0x9 ∧ opField w = 0x2 := fields_of_masked h rfl rfl
  have zero : w.extractLsb' 8 16 = 0 := slice_of_masked h rfl
  have row : decodeWord w = formatByte w (.evTwiRxbyte (byteField w)) := by
    simp [decodeWord, unit, decodeBus, op]
  rw [decode_eq_ok, row, formatByte_eq_ok]
  exact ⟨⟨zero, rfl⟩, rfl⟩

/-! ### When a stimulus is a step -/

/-- An enabled stimulus is a step to its next state (R102). -/
theorem stimulus_of_enabled {enabled : Bool} {P : Prop} (iff : enabled = true ↔ P) (h : P) (t : State) :
    stimulus enabled t = .next t :=
  if_pos (iff.2 h)

/-- A stimulus that is not enabled is refused (R102, log 6). -/
theorem stimulus_of_not_enabled {enabled : Bool} {P : Prop} (iff : enabled = true ↔ P) (h : ¬ P) (t : State) :
    stimulus enabled t = .refused .stimulusNotEnabled :=
  if_neg (mt iff.1 h)

/-! ### The Line -/

/-- Only a change of level on a bound pin is a step (R153). -/
theorem ctsChange_iff {s : State} {level : Bool} :
    (s.cfg.ctsBound && level != s.uart.ctsIn) = true ↔ s.cfg.ctsBound = true ∧ level ≠ s.uart.ctsIn := by
  rw [Bool.and_eq_true, bne_iff_ne]

/-- The channel after byte `b` has left the wire (R152). -/
theorem Uart.shiftDone_of_some {u : Uart} {b : Byte} (h : u.txshift = some b) :
    u.shiftDone = { u with
      uartOut := u.uartOut ++ [b], txshift := u.txhold, txhold := none
      txc := if u.txhold = none then true else u.txc } := by
  simp only [Uart.shiftDone, h, Option.toList_some]

/-! ### The Bus -/

theorem Eng.canAck_iff {e : Eng} : e.canAck = true ↔ e = .addrW ∨ e = .dataW := by
  simp [Eng.canAck]

theorem Eng.canNack_iff {e : Eng} : e.canNack = true ↔ e = .addrW ∨ e = .addrR ∨ e = .dataW := by
  simp [Eng.canNack, or_assoc]

theorem Eng.canReceive_iff {e : Eng} : e.canReceive = true ↔ e = .addrR ∨ e = .recv := by
  simp [Eng.canReceive]

theorem Eng.inTransfer_iff {e : Eng} :
    e.inTransfer = true ↔ e = .addrW ∨ e = .addrR ∨ e = .dataW ∨ e = .recv := by
  simp [Eng.inTransfer, or_assoc]

theorem Twi.canGoIdle_iff {t : Twi} :
    t.canGoIdle = true ↔ t.begun = true ∧ t.busIdle = false ∧
      (t.eng = .stop ∨ t.eng = .none ∧ (t.tstate = .arbLost ∨ t.tstate = .busError) ∧
        t.wif = false ∧ t.rif = false ∧ t.arbf = false ∧ t.berf = false) := by
  simp [Twi.canGoIdle, Twi.anyFlag, and_assoc]

/-! ### The statements -/

/-- Settles O29: each stimulus is a step exactly under its enabling condition, and its next state is the one
the rule gives. -/
theorem lineStimuliWhenEnabled : Obligations.LineStimuliWhenEnabled := by
  refine ⟨decodesAs_of_word rfl, decodesAs_of_word rfl, evCts_decodesAs, fun s => ⟨?_, ?_, ?_, ?_, ?_, ?_⟩⟩
  · exact fun on => stimulus_of_enabled Iff.rfl on _
  · exact fun off => stimulus_of_not_enabled Iff.rfl (Bool.eq_false_iff.1 off) _
  · intro b shifting
    rw [← Uart.shiftDone_of_some shifting]
    exact stimulus_of_enabled Option.isSome_iff_exists ⟨b, shifting⟩ _
  · exact fun idle => stimulus_of_not_enabled Option.isSome_iff_ne_none (not_not_intro idle) _
  · exact fun level bound change => stimulus_of_enabled ctsChange_iff ⟨bound, change⟩ _
  · rintro level (unbound | same)
    · exact stimulus_of_not_enabled ctsChange_iff (fun ⟨bound, _⟩ => Bool.eq_false_iff.1 unbound bound) _
    · exact stimulus_of_not_enabled ctsChange_iff (fun ⟨_, change⟩ => change same) _

/-- Settles O40: each stimulus is a step exactly in the engine states that can produce it (D38). -/
theorem busStimuliWhenEnabled : Obligations.BusStimuliWhenEnabled := by
  refine ⟨decodesAs_of_word rfl, decodesAs_of_word rfl, evTwiRxbyte_decodesAs, decodesAs_of_word rfl,
    decodesAs_of_word rfl, decodesAs_of_word rfl, fun s => ⟨?_, ?_, ?_, ?_, ?_, ?_, ?_, ?_, ?_, ?_, ?_, ?_⟩⟩
  · exact fun can => stimulus_of_enabled Eng.canAck_iff can _
  · exact fun cannot => stimulus_of_not_enabled Eng.canAck_iff cannot _
  · exact fun can => stimulus_of_enabled Eng.canNack_iff can _
  · exact fun cannot => stimulus_of_not_enabled Eng.canNack_iff cannot _
  · exact fun data can => stimulus_of_enabled Eng.canReceive_iff can _
  · exact fun data cannot => stimulus_of_not_enabled Eng.canReceive_iff cannot _
  · exact fun transfer => stimulus_of_enabled Eng.inTransfer_iff transfer _
  · exact fun quiet => stimulus_of_not_enabled Eng.inTransfer_iff quiet _
  · exact fun transfer => stimulus_of_enabled Eng.inTransfer_iff transfer _
  · exact fun quiet => stimulus_of_not_enabled Eng.inTransfer_iff quiet _
  · exact fun released => stimulus_of_enabled Twi.canGoIdle_iff released _
  · exact fun held => stimulus_of_not_enabled Twi.canGoIdle_iff held _

end Sys2Proof.Machine
end

section
/-! PROOFS. The interrupt enable `IE` (40_sys.md R115, R116, R122): what the two `SYS` commands do with it, and
that nothing else writes it. -/

namespace Sys2Proof.Machine

variable {s t : State}

/-! ### The `SYS` commands -/

theorem exec_sysCli_of_idle (idle : s.hstate = .idle) : exec .sysCli s = .next { s with ie := false, resp := 0 } := by
  simp only [exec, execSysCli, hostCommand_of_idle idle, toOutcome_ok, State.respond]

theorem exec_sysSei_of_idle (idle : s.hstate = .idle) : exec .sysSei s = .next { s with ie := true, resp := 0 } := by
  simp only [exec, execSysSei, hostCommand_of_idle idle, toOutcome_ok, State.respond]

/-- A source is pending by its device's flags and enables alone (R225). -/
theorem State.pending_congr (uart : t.uart = s.uart) (twi : t.twi = s.twi) (src : IrqSource) :
    t.pending src = s.pending src := by
  cases src <;> simp only [State.pending, uart, twi]

/-- With interrupts enabled the dispatcher may run exactly the pending sources (R228). -/
theorem State.dispatchEnabled_of_ie (on : s.ie = true) (src : IrqSource) :
    s.dispatchEnabled src = s.pending src := by
  rw [State.dispatchEnabled, on, Bool.true_and]

/-- Settles O10: each command is its one write of `IE` and the response, and neither touches a device, so the
pending sources stay. -/
theorem sysCommandsSetIE : Obligations.SysCommandsSetIE := by
  refine ⟨decodesAs_of_word rfl, decodesAs_of_word rfl, fun s idle =>
    ⟨exec_sysCli_of_idle idle, exec_sysSei_of_idle idle, fun src => ⟨State.pending_congr rfl rfl src, ?_⟩⟩⟩
  rw [State.dispatchEnabled_of_ie rfl]
  exact State.pending_congr rfl rfl src

/-! ### Handlers and waits keep `IE` -/

/-- Taking an interrupt does not disable interrupts (R231). -/
theorem runHandler_ie {src : IrqSource} (h : runHandler src s = .ok t) : t.ie = s.ie := by
  rcases runHandler_eq_ok h with ⟨u, rfl, -⟩ | ⟨w, rfl, -, -⟩ <;> rfl

theorem replayDre_ie (h : replayDre s = .ok t) : t.ie = s.ie := by
  rcases replayDre_eq_ok h with rfl | ⟨u, -, rfl⟩ <;> rfl

theorem twiRetry_ie {e : Bool} (h : twiRetry e s = .ok t) : t.ie = s.ie := by
  rcases twiRetry_eq_ok h with rfl | ⟨w, -, rfl⟩ <;> rfl

/-- The retry of each of the six waits (R119, R120). -/
theorem waitRetry_ie {kind : WaitKind} {cmd : Instr} {w : Waiting} {e : Bool}
    (hw : waitingOf kind cmd = some w) (h : w.retry e s = .ok t) : t.ie = s.ie := by
  rcases waitingOf_eq_some hw with ⟨data, -, -, rfl⟩ | ⟨-, -, rfl⟩ | ⟨-, -, rfl⟩ | ⟨addr, -, -, rfl⟩ |
    ⟨addr, count, -, -, rfl⟩ | ⟨-, -, rfl⟩
  case inl =>
    rcases uartWriteRetry_eq_ok h with ⟨-, rfl⟩ | ⟨-, replay⟩
    · rfl
    · exact replayDre_ie replay
  case inr.inl =>
    rcases uartFlushRetry_eq_ok h with ⟨-, rfl⟩ | ⟨-, replay⟩
    · rfl
    · exact replayDre_ie replay
  case inr.inr.inl =>
    obtain rfl := Except.ok.inj h
    rfl
  all_goals exact twiRetry_ie h

/-- The post-part of each of the six waits writes a device and responds (R118). -/
theorem waitPost_ie {kind : WaitKind} {cmd : Instr} {w : Waiting} (hw : waitingOf kind cmd = some w)
    (h : w.post s = .ok t) : t.ie = s.ie := by
  rcases waitingOf_eq_some hw with ⟨data, -, -, rfl⟩ | ⟨-, -, rfl⟩ | ⟨-, -, rfl⟩ | ⟨addr, -, -, rfl⟩ |
    ⟨addr, count, -, -, rfl⟩ | ⟨-, -, rfl⟩
  case inl =>
    obtain ⟨rb, -, rfl⟩ := uartWritePost_eq_ok h
    rfl
  case inr.inr.inr.inl => rcases twiBeginTxPost_eq_ok h with ⟨-, rfl⟩ | ⟨-, rfl⟩ <;> rfl
  case inr.inr.inr.inr.inl => rcases twiRequestPost_eq_ok h with ⟨st, -, rfl⟩ | ⟨-, -, -, rfl⟩ <;> rfl
  all_goals
    obtain rfl := Except.ok.inj h
    rfl

theorem pollHost_ie (h : pollHost s = .next t) : t.ie = s.ie := by
  obtain ⟨kind, e, cmd, w, -, hw, poll⟩ := pollHost_eq_next h
  rcases Waiting.poll_eq_ok poll with ⟨-, t', post, rfl⟩ | ⟨-, retry⟩
  · exact (t'.setHost_ie _).trans (waitPost_ie hw post)
  · exact waitRetry_ie hw retry

/-! ### Instructions keep `IE` -/

/-- A stimulus writes one device and nothing else (R102). -/
theorem exec_stimulus_writes_device {i : Instr} (hi : i.origin ≠ .host) (h : exec i s = .next t) :
    (∃ u, t = s.setUart u) ∨ ∃ w, t = s.setTwi w := by
  cases i with
  | evRxByte data => exact .inl ⟨_, execEvRxByte_next h⟩
  | evRxSpurious => exact .inl ⟨_, (execEvRxSpurious_next h).2⟩
  | evTxShiftDone => exact .inl ⟨_, (execEvTxShiftDone_next h).2⟩
  | evCts level => exact .inl ⟨_, (execEvCts_next h).2.2⟩
  | evTwiAck => exact .inr ⟨_, (execEvTwiAck_next h).2⟩
  | evTwiNack => exact .inr ⟨_, (execEvTwiNack_next h).2⟩
  | evTwiRxbyte data => exact .inr ⟨_, (execEvTwiRxbyte_next h).2⟩
  | evTwiArblost => exact .inr ⟨_, (execEvTwiArblost_next h).2⟩
  | evTwiBuserr => exact .inr ⟨_, (execEvTwiBuserr_next h).2⟩
  | evTwiBusIdle => exact .inr ⟨_, (execEvTwiBusIdle_next h).2⟩
  | _ => exact absurd rfl hi

theorem ifTwiBegun_raises_or_runs {body : State → Except Fault State} (h : ifTwiBegun body s = .ok t) :
    (∃ f, t = s.raise f) ∨ body s = .ok t := by
  rcases ifTwiBegun_eq_ok h with ⟨-, run⟩ | ⟨-, raised⟩
  · exact .inr run
  · exact .inl ⟨_, raised⟩

/-- Everything the issue of a blocking command can answer with a next state: a fault response, or the issue
step of its wait (R118, R222). -/
theorem exec_blocking_eq_next {kind : WaitKind} {cmd : Instr} {w : Waiting} (hw : waitingOf kind cmd = some w)
    (h : exec cmd s = .next t) : (∃ f, t = s.raise f) ∨ w.issue cmd s = .ok t := by
  rcases waitingOf_eq_some hw with ⟨data, -, rfl, rfl⟩ | ⟨-, rfl, rfl⟩ | ⟨-, rfl, rfl⟩ | ⟨addr, -, rfl, rfl⟩ |
    ⟨addr, count, -, rfl, rfl⟩ | ⟨-, rfl, rfl⟩
  all_goals
    simp only [exec, execUartWrite, execUartFlush, execUartEnd, execTwiBeginTx, execTwiRequest, execTwiAvailable,
      hostCommand_eq_next] at h
    obtain ⟨-, b⟩ := h
  case inl =>
    split at b
    · exact .inr b
    · exact .inl ⟨_, (Except.ok.inj b).symm⟩
  case inr.inl | inr.inr.inl => exact .inr b
  all_goals exact ifTwiBegun_raises_or_runs b

theorem exec_blocking_ie {kind : WaitKind} {cmd : Instr} {w : Waiting} (hw : waitingOf kind cmd = some w)
    (h : exec cmd s = .next t) : t.ie = s.ie := by
  rcases exec_blocking_eq_next hw h with ⟨f, rfl⟩ | issue
  · rfl
  · rcases Waiting.issue_eq_ok issue with ⟨-, post⟩ | ⟨-, t', retry, rfl⟩
    · exact waitPost_ie hw post
    · exact (t'.setHost_ie _).trans (waitRetry_ie hw retry)

/-- Apart from `SYS_CLI` and `SYS_SEI`, no command changes `IE` (R122). -/
theorem exec_command_ie {i : Instr} (hi : i.origin = .host) (cli : i ≠ .sysCli) (sei : i ≠ .sysSei)
    (h : exec i s = .next t) : t.ie = s.ie := by
  cases i with
  | sysCli => exact absurd rfl cli
  | sysSei => exact absurd rfl sei
  | uartWrite _ => exact exec_blocking_ie (kind := .uWrite) rfl h
  | uartFlush => exact exec_blocking_ie (kind := .uFlush) rfl h
  | uartEnd => exact exec_blocking_ie (kind := .uEnd) rfl h
  | twiBeginTx _ => exact exec_blocking_ie (kind := .tBeginTx) rfl h
  | twiRequest _ _ => exact exec_blocking_ie (kind := .tRequest) rfl h
  | twiAvailable => exact exec_blocking_ie (kind := .tAvailable) rfl h
  | uartBegin _ _ => obtain ⟨-, rfl | ⟨v, -, rfl⟩⟩ := execUartBegin_next h <;> rfl
  | uartAvailable => obtain ⟨-, rfl⟩ := execUartAvailable_next h; rfl
  | uartPeek => obtain ⟨-, b, -, rfl⟩ := execUartPeek_next h; rfl
  | uartRead => obtain ⟨-, ⟨-, rfl⟩ | ⟨-, b, rb, -, rfl⟩⟩ := execUartRead_next h <;> rfl
  | twiBegin _ _ _ => obtain ⟨-, rfl | ⟨st, -, rfl⟩ | ⟨-, -, -, -, rfl⟩⟩ := execTwiBegin_next h <;> rfl
  | twiWrite _ => obtain ⟨-, ⟨-, rfl⟩ | ⟨-, ⟨st, -, rfl⟩ | ⟨-, sb, -, rfl⟩⟩⟩ := execTwiWrite_next h <;> rfl
  | twiEndTx _ => obtain ⟨-, ⟨f, -, rfl⟩ | ⟨st, -, rfl⟩ | ⟨-, -, -, -, rfl⟩⟩ := execTwiEndTx_next h <;> rfl
  | twiRead => obtain ⟨-, ⟨-, rfl⟩ | ⟨-, b, rb, -, rfl⟩⟩ := execTwiRead_next h <;> rfl
  | twiPeek => obtain ⟨-, ⟨-, rfl⟩ | ⟨-, b, -, rfl⟩⟩ := execTwiPeek_next h <;> rfl
  | twiFlush => obtain ⟨-, rfl⟩ := execTwiFlush_next h; rfl
  | twiReady => obtain ⟨-, rfl⟩ := execTwiReady_next h; rfl
  | twiResult => obtain ⟨-, rfl⟩ := execTwiResult_next h; rfl
  | twiWrerr => obtain ⟨-, rfl⟩ := execTwiWrerr_next h; rfl
  | evRxByte _ | evRxSpurious | evTxShiftDone | evCts _ => cases hi
  | evTwiAck | evTwiNack | evTwiRxbyte _ | evTwiArblost | evTwiBuserr | evTwiBusIdle => cases hi

theorem exec_ie {i : Instr} (cli : i ≠ .sysCli) (sei : i ≠ .sysSei) (h : exec i s = .next t) : t.ie = s.ie := by
  by_cases hi : i.origin = .host
  · exact exec_command_ie hi cli sei h
  · rcases exec_stimulus_writes_device hi h with ⟨u, rfl⟩ | ⟨w, rfl⟩ <;> rfl

/-! ### Moves -/

@[simp] theorem Move.instr_poll : Move.poll.instr = none := rfl
@[simp] theorem Move.instr_dispatch (src : IrqSource) : (Move.dispatch src).instr = none := rfl

theorem Move.instr_of_decode {o : Origin} {w : Word} {i : Instr} (h : decode o w = .ok i) :
    (Move.word o w).instr = some i := by
  simp only [Move.instr, h]

theorem Move.instr_of_illegal {o : Origin} {w : Word} {e : DecodeError} (h : decode o w = .error e) :
    (Move.word o w).instr = none := by
  simp only [Move.instr, h]

/-- A move that issues no instruction keeps `IE`: the fault response to an illegal word, a poll, a handler
run (R122, R231). -/
theorem takeMove_ie_of_no_instr {m : Move} (hm : m.instr = none) (h : takeMove m s = .next t) :
    t.ie = s.ie := by
  rcases takeMove_eq_next h with ⟨o, w, i, rfl, ok, -⟩ | ⟨w, e, -, -, -, rfl⟩ | ⟨-, poll⟩ | ⟨src, -, disp⟩
  · cases (Move.instr_of_decode ok).symm.trans hm
  · rfl
  · exact pollHost_ie poll
  · obtain ⟨-, -, run⟩ := dispatch_eq_next disp
    exact runHandler_ie run

/-- A move that issues an instruction runs it. -/
theorem takeMove_of_instr {m : Move} {i : Instr} (hi : m.instr = some i) (s : State) :
    takeMove m s = exec i s := by
  cases m with
  | poll | dispatch src => cases hi
  | word o w =>
    cases d : decode o w with
    | error e => cases (Move.instr_of_illegal d).symm.trans hi
    | ok j =>
      obtain rfl : j = i := Option.some.inj ((Move.instr_of_decode d).symm.trans hi)
      exact takeWord_of_decode d s

/-- Settles O11: a move either issues no instruction or runs one, and of the instructions only the two `SYS`
commands write `IE`. -/
theorem onlySysCommandsChangeIE : Obligations.OnlySysCommandsChangeIE := by
  intro m s t h
  cases hm : m.instr with
  | none => exact .inr (.inr ⟨nofun, nofun, takeMove_ie_of_no_instr hm h⟩)
  | some i =>
    rw [takeMove_of_instr hm] at h
    by_cases cli : i = .sysCli
    · subst cli
      obtain ⟨-, rfl⟩ := execSysCli_next h
      exact .inl ⟨rfl, rfl⟩
    by_cases sei : i = .sysSei
    · subst sei
      obtain ⟨-, rfl⟩ := execSysSei_next h
      exact .inr (.inl ⟨rfl, rfl⟩)
    · exact .inr (.inr ⟨mt Option.some.inj cli, mt Option.some.inj sei, exec_ie cli sei h⟩)

end Sys2Proof.Machine
end

section
/-! PROOFS. Baud selection (41_uart.md R125, R126): which bauds resolve, to what, and at which speed. -/

namespace Sys2Proof.Machine

/-- The canonical bauds are distinct, so each is found at its own place (R8). -/
theorem canonIndex_canonBauds (i : Fin canonBauds.length) : canonIndex canonBauds[i] = some i := by
  have distinct : canonBauds.Nodup := by decide
  refine List.findFinIdx?_eq_some_iff.2 ⟨beq_self_eq_true _, fun j before same => ?_⟩
  exact before.ne (Fin.ext ((distinct.getElem_inj_iff).1 (beq_iff_eq.1 same)))

theorem canonIndex_eq_none {baud : Nat} (h : baud ∉ canonBauds) : canonIndex baud = none :=
  List.findFinIdx?_eq_none_iff.2 fun _ mem same => h (beq_iff_eq.1 same ▸ mem)

theorem baudResolve_canonBauds (p : Params) (i : Fin canonBauds.length) (u2x : Bool) :
    baudResolve p canonBauds[i] u2x = some (baudTable p u2x i) := by
  rw [baudResolve, canonIndex_canonBauds, Option.map_some]

theorem baudResolve_eq_none (p : Params) {baud : Nat} (h : baud ∉ canonBauds) (u2x : Bool) :
    baudResolve p baud u2x = none := by
  rw [baudResolve, canonIndex_eq_none h, Option.map_none]

theorem doubleSpeed_iff {baud : Nat} : doubleSpeed baud = true ↔ 57600 < baud := decide_eq_true_iff

/-- Settles O14: a canonical baud is found at its own place of the table, any other is not found. -/
theorem baudResolveIsTheTable : Obligations.BaudResolveIsTheTable :=
  ⟨fun p i => ⟨baudResolve_canonBauds p i false, baudResolve_canonBauds p i true⟩,
    fun p _ u2x other => baudResolve_eq_none p other u2x, fun _ => doubleSpeed_iff⟩

end Sys2Proof.Machine
end

section
/-! PROOFS. The wait construct (40_sys.md R118 to R121): what an issue step and a poll step do, by whether the
wait is over. -/

namespace Sys2Proof.Machine

variable {s t : State} {w : Waiting} {e : Bool} {kind : WaitKind} {cmd : Instr}

/-! ### The issue step -/

theorem Waiting.issue_of_ready (ready : w.ready s.ie s = true) : w.issue cmd s = w.post s := if_pos ready

theorem Waiting.issue_of_not_ready (entry : s.ie = e) (ready : ¬ w.ready e s = true) (retry : w.retry e s = .ok t) :
    w.issue cmd s = .ok (t.setHost (.wait w.kind e cmd)) := by
  subst entry
  rw [Waiting.issue, if_neg ready, retry, ok_bind]

/-! ### The poll step -/

theorem pollHost_of_wait (wait : s.hstate = .wait kind e cmd) (hw : waitingOf kind cmd = some w) :
    pollHost s = toOutcome (w.poll e s) := by
  simp only [pollHost, wait, hw]

/-- A poll that finds the wait over runs the post-part and makes the host idle. -/
theorem pollHost_of_ready (wait : s.hstate = .wait kind e cmd) (hw : waitingOf kind cmd = some w)
    (ready : w.ready e s = true) (post : w.post s = .ok t) : pollHost s = .next (t.setHost .idle) := by
  rw [pollHost_of_wait wait hw, Waiting.poll, if_pos ready, post, ok_bind, toOutcome_ok]

/-- A poll that does not find the wait over is the retry. -/
theorem pollHost_of_not_ready (wait : s.hstate = .wait kind e cmd) (hw : waitingOf kind cmd = some w)
    (ready : ¬ w.ready e s = true) (retry : w.retry e s = .ok t) : pollHost s = .next t := by
  rw [pollHost_of_wait wait hw, Waiting.poll, if_neg ready, retry, toOutcome_ok]

/-! ### The UART replay (R120) -/

theorem Uart.dre_iff {u : Uart} : u.dre = true ↔ u.txhold = none := Option.isNone_iff_eq_none

theorem replayDre_of_held (held : s.uart.txhold ≠ none) : replayDre s = .ok s := if_neg (mt Uart.dre_iff.1 held)

theorem replayDre_of_run {u : Uart} (free : s.uart.txhold = none) (run : isrUartDre s.cfg s.uart = .ok u) :
    replayDre s = .ok (s.setUart u) := by
  rw [replayDre, if_pos (Uart.dre_iff.2 free), runHandler, run, ok_bind]

end Sys2Proof.Machine
end

section
/-! PROOFS. The `UART` commands (41_uart.md R127 to R133): their encoding lines, and the next state of each issue
and of each poll. -/

namespace Sys2Proof.Machine

variable {s : State}

/-! ### Encoding lines (R95) -/

/-- The encoding line of a row of format `B` or `A`: the mask reads all but the operand byte (R92). -/
theorem decodesAs_of_formatByte {o : Origin} {pattern : Word} {read : Word → Instr}
    (row : ∀ w, unitField w = unitField pattern → opField w = opField pattern →
      decodeWord w = formatByte w (read w))
    (origin : ∀ w, (read w).origin = o) (zero : pattern.extractLsb' 8 16 = 0) :
    DecodesAs o 0xFFFFFF00 pattern read := by
  intro w h
  obtain ⟨unit, op⟩ := fields_of_masked h rfl rfl
  rw [decode_eq_ok, row w unit op, formatByte_eq_ok]
  exact ⟨⟨(slice_of_masked h rfl).trans zero, rfl⟩, origin w⟩

theorem uartWrite_decodesAs :
    DecodesAs .host 0xFFFFFF00 0x15000000 (fun w => .uartWrite (w.extractLsb' 0 8)) := by
  refine decodesAs_of_formatByte (fun w (unit : unitField w = 0x1) (op : opField w = 0x5) => ?_) (fun _ => rfl) rfl
  simp [decodeWord, unit, decodeUart, op, byteField]

theorem uartBegin_decodesAs :
    DecodesAs .host 0xFF000000 0x10000000
      (fun w => .uartBegin (w.extractLsb' 20 4) (w.extractLsb' 0 20).toNat) := by
  intro w h
  obtain ⟨unit, op⟩ : unitField w = 0x1 ∧ opField w = 0x0 := fields_of_masked h rfl rfl
  have row : decodeWord w = .ok (.uartBegin (frameField w) (baudField w).toNat) := by
    simp [decodeWord, unit, decodeUart, op]
  exact decode_eq_ok.2 ⟨row, rfl⟩

/-! ### `UART_BEGIN` -/

/-- The table entry of the mode that the baud selects (R125, R126). -/
theorem baudTable_doubleSpeed (p : Params) (baud : Nat) (i : Fin canonBauds.length) :
    baudTable p (doubleSpeed baud) i = if 57600 < baud then p.baudDouble[i] else p.baudSingle[i] := by
  simp only [baudTable, doubleSpeed_iff]

theorem exec_uartBegin_of_resolved {frame : BitVec 4} {baud : Nat} {timing : BitVec 16} (idle : s.hstate = .idle)
    (h : baudResolve s.cfg baud (doubleSpeed baud) = some timing) :
    exec (.uartBegin frame baud) s =
      .next ((s.setUart (s.uart.begin s.cfg frame baud timing)).respond (respStatus .ok)) := by
  simp only [exec, execUartBegin, hostCommand_of_idle idle, h, toOutcome_ok]

theorem exec_uartBegin_of_unresolved {frame : BitVec 4} {baud : Nat} (idle : s.hstate = .idle)
    (h : baudResolve s.cfg baud (doubleSpeed baud) = none) :
    exec (.uartBegin frame baud) s = .next (s.respond (respStatus .unsupportedBaud)) := by
  simp only [exec, execUartBegin, hostCommand_of_idle idle, h, toOutcome_ok]

/-- Settles O15: the baud resolves exactly when it is canonical, and the channel is then the one that
`Uart.begin` leaves. -/
theorem uartBeginConfigures : Obligations.UartBeginConfigures := by
  refine ⟨uartBegin_decodesAs, fun frame i s idle => ?_, fun frame baud s idle other => ?_⟩
  · have resolved := baudResolve_canonBauds s.cfg i (doubleSpeed canonBauds[i])
    rw [exec_uartBegin_of_resolved idle resolved, baudTable_doubleSpeed]
    rfl
  · exact exec_uartBegin_of_unresolved idle (baudResolve_eq_none s.cfg other _)

/-! ### `UART_END` -/

theorem uartEndWaiting_ready_iff {e : Bool} :
    uartEndWaiting.ready e s = true ↔ e = false ∨ s.uart.txb.head = s.uart.txb.tail := by
  simp [uartEndWaiting, RingBuffer.empty_iff]

/-- With interrupts, `UART_END` waits while the TX ring holds bytes. -/
theorem uartEndWaiting_not_ready (sending : s.uart.txb.head ≠ s.uart.txb.tail) :
    ¬ uartEndWaiting.ready true s = true := by
  rw [uartEndWaiting_ready_iff]
  exact fun ended => ended.elim nofun sending

theorem exec_uartEnd_of_idle (idle : s.hstate = .idle) :
    exec .uartEnd s = toOutcome (uartEndWaiting.issue .uartEnd s) := hostCommand_of_idle idle _

/-- Settles O16: the wait is over without interrupts or with an empty TX ring, and its retry does nothing. -/
theorem uartEndClosesChannel : Obligations.UartEndClosesChannel := by
  refine ⟨decodesAs_of_word rfl, fun s => ⟨fun idle ended => ?_, fun idle on sending => ?_,
    fun wait drained => ?_, fun wait sending => ?_⟩⟩
  · rw [exec_uartEnd_of_idle idle, Waiting.issue_of_ready (uartEndWaiting_ready_iff.2 ended)]
    rfl
  · rw [exec_uartEnd_of_idle idle, Waiting.issue_of_not_ready on (uartEndWaiting_not_ready sending) rfl]
    rfl
  · exact pollHost_of_ready wait rfl (uartEndWaiting_ready_iff.2 (.inr drained)) rfl
  · exact pollHost_of_not_ready wait rfl (uartEndWaiting_not_ready sending) rfl

/-! ### `UART_AVAILABLE` -/

theorem nRx_pos (p : Params) : 0 < p.nRx := Nat.succ_pos _

/-- `Occ` as the remainder that R66 writes. -/
theorem RingBuffer.intCast_occ {n : Nat} (pos : 0 < n) (rb : RingBuffer) :
    (rb.occ n : Int) = ((rb.head : Int) - rb.tail) % n :=
  Int.toNat_of_nonneg (Int.emod_nonneg _ (Int.natCast_ne_zero.2 pos.ne'))

theorem exec_uartAvailable_of_idle (idle : s.hstate = .idle) :
    exec .uartAvailable s = .next (s.respond (respCount (s.uart.rxb.occ s.cfg.nRx))) := by
  simp only [exec, execUartAvailable, hostCommand_of_idle idle, toOutcome_ok]

/-- Settles O17: `Occ` is a remainder modulo `N_RX`. -/
theorem uartAvailableCountsUnread : Obligations.UartAvailableCountsUnread := by
  refine ⟨decodesAs_of_word rfl, fun s idle => ?_⟩
  have pos : (0 : Int) < s.cfg.nRx := Int.natCast_pos.2 (nRx_pos s.cfg)
  refine ⟨?_, Int.emod_nonneg _ pos.ne', Int.le_sub_one_of_lt (Int.emod_lt_of_pos _ pos)⟩
  rw [exec_uartAvailable_of_idle idle, ← RingBuffer.intCast_occ (nRx_pos s.cfg), BitVec.ofInt_natCast]
  rfl

/-! ### `UART_PEEK` -/

theorem RingBuffer.front_of_empty {id : MemId} {n : Nat} {rb : RingBuffer} (h : rb.empty = true) :
    rb.front id n = .ok none := if_pos h

theorem RingBuffer.front_of_some {id : MemId} {n : Nat} {rb : RingBuffer} (h : ¬ rb.empty = true) (lt : rb.tail < n) :
    rb.front id n = .ok (some (rb.storage.byteAt id 0 rb.tail)) := by
  rw [RingBuffer.front, if_neg h, memRead_of_lt lt, ok_bind]

theorem exec_uartPeek_of_front {b : Option Byte} (idle : s.hstate = .idle)
    (front : s.uart.rxb.front .rxb s.cfg.nRx = .ok b) : exec .uartPeek s = .next (s.respond (respOption b)) := by
  simp only [exec, execUartPeek, hostCommand_of_idle idle, front, ok_bind, toOutcome_ok]

/-- Settles O18: the response is `Front` of the RX ring. -/
theorem uartPeekShowsOldest : Obligations.UartPeekShowsOldest := by
  refine ⟨decodesAs_of_word rfl, fun s idle lt => ?_⟩
  split
  case isTrue drained =>
    exact exec_uartPeek_of_front idle (RingBuffer.front_of_empty (RingBuffer.empty_iff.2 drained))
  case isFalse unread =>
    exact exec_uartPeek_of_front idle (RingBuffer.front_of_some (mt RingBuffer.empty_iff.1 unread) lt)

/-! ### `UART_READ` -/

/-- RTS after a read, by the bytes unread before it (R68, R131). -/
theorem rtsAfterRead_eq (p : Params) (u : Uart) :
    rtsAfterRead p u =
      if p.rtsBound = true ∧ (u.rxb.contents .rxb p.nRx).length + 3 < p.nRx - 1 then false else u.rtsAsserted := by
  have far : (!u.rxb.nearFull p.nRx rtsMargin) = true ↔ (u.rxb.contents .rxb p.nRx).length + 3 < p.nRx - 1 := by
    rw [Bool.not_eq_true', Bool.eq_false_iff, Ne, RingBuffer.nearFull_iff, RingBuffer.length_contents, not_le]
    rfl
  simp only [rtsAfterRead, Bool.and_eq_true, far]

theorem exec_uartRead_of_empty (idle : s.hstate = .idle) (drained : s.uart.rxb.empty = true) :
    exec .uartRead s = .next (s.respond respNoByte) := by
  simp only [exec, execUartRead, hostCommand_of_idle idle, drained, if_true, toOutcome_ok]

theorem exec_uartRead_of_some (idle : s.hstate = .idle) (unread : s.uart.rxb.empty = false)
    (lt : s.uart.rxb.tail < s.cfg.nRx) :
    exec .uartRead s = .next ((s.setUart { s.uart with
      rxb := { s.uart.rxb with tail := (s.uart.rxb.tail + 1) % s.cfg.nRx }
      rtsAsserted := rtsAfterRead s.cfg s.uart }).respond
        (respByte (s.uart.rxb.storage.byteAt .rxb 0 s.uart.rxb.tail))) := by
  simp only [exec, execUartRead, hostCommand_of_idle idle, unread, Bool.false_eq_true, if_false,
    RingBuffer.take_of_some unread lt, ok_bind, toOutcome_ok, respOption]

/-- Settles O19: the response is `Take` of the RX ring, and RTS is the one of `rtsAfterRead`. -/
theorem uartReadTakesOldest : Obligations.UartReadTakesOldest := by
  refine ⟨decodesAs_of_word rfl, fun s idle wf => ⟨fun drained => ?_, fun unread => ?_⟩⟩
  · exact exec_uartRead_of_empty idle (RingBuffer.empty_iff.2 drained)
  · have filled : s.uart.rxb.empty = false := Bool.eq_false_iff.2 (mt RingBuffer.empty_iff.1 unread)
    rw [exec_uartRead_of_some idle filled wf.tail_lt, rtsAfterRead_eq]
    rfl

/-! ### `UART_FLUSH` -/

theorem uartFlushWaiting_ready_iff {e : Bool} :
    uartFlushWaiting.ready e s = true ↔ ¬ (s.uart.transmitting = true ∧ s.uart.txc = false) := by
  rw [← Bool.not_eq_true' s.uart.txc, ← Bool.and_eq_true, Bool.not_eq_true, ← Bool.not_eq_true']
  rfl

/-- With interrupts, or with a byte in the holding register, a retry of `UART_FLUSH` does nothing (R133). -/
theorem uartFlushRetry_of_nothing {e : Bool} (h : e = true ∨ s.uart.txhold ≠ none) :
    uartFlushWaiting.retry e s = .ok s := by
  cases e with
  | true => rfl
  | false => exact replayDre_of_held (h.resolve_left nofun)

theorem exec_uartFlush_of_idle (idle : s.hstate = .idle) :
    exec .uartFlush s = toOutcome (uartFlushWaiting.issue .uartFlush s) := hostCommand_of_idle idle _

/-- Settles O22: an issue step and a poll step complete on the same condition, and otherwise both do the same
retry. -/
theorem uartFlushWaitsForTransmission : Obligations.UartFlushWaitsForTransmission := by
  refine ⟨decodesAs_of_word rfl, fun s => ⟨fun idle ended => ?_, fun idle outstanding nothing => ?_,
    fun idle outstanding off free u run => ?_, fun e wait => ⟨fun ended => ?_, fun outstanding nothing => ?_,
    fun outstanding off free u run => ?_⟩⟩⟩
  · rw [exec_uartFlush_of_idle idle, Waiting.issue_of_ready (uartFlushWaiting_ready_iff.2 ended), ← idle]
    rfl
  · rw [exec_uartFlush_of_idle idle, Waiting.issue_of_not_ready rfl (mt uartFlushWaiting_ready_iff.1 outstanding)
      (uartFlushRetry_of_nothing nothing)]
    rfl
  · rw [exec_uartFlush_of_idle idle, Waiting.issue_of_not_ready off (mt uartFlushWaiting_ready_iff.1 outstanding)
      (replayDre_of_run free run)]
    rfl
  · exact pollHost_of_ready wait rfl (uartFlushWaiting_ready_iff.2 ended) rfl
  · exact pollHost_of_not_ready wait rfl (mt uartFlushWaiting_ready_iff.1 outstanding)
      (uartFlushRetry_of_nothing nothing)
  · subst off
    exact pollHost_of_not_ready wait rfl (mt uartFlushWaiting_ready_iff.1 outstanding) (replayDre_of_run free run)

/-! ### `UART_WRITE` -/

theorem RingBuffer.full_eq_false_iff {n : Nat} {rb : RingBuffer} :
    rb.full n = false ↔ (rb.head + 1) % n ≠ rb.tail := by
  simp [RingBuffer.full]

theorem uartWriteWaiting_ready_iff {data : Byte} {e : Bool} :
    (uartWriteWaiting data).ready e s = true ↔ (s.uart.txb.head + 1) % s.cfg.nTx ≠ s.uart.txb.tail := by
  rw [← RingBuffer.full_eq_false_iff, ← Bool.not_eq_true']
  rfl

/-- The post-part with room in the ring: the byte is at the head slot, and the transmit path runs (R69, R132). -/
theorem uartWritePost_of_room (wf : s.uart.txb.Wf .txb s.cfg.nTx)
    (room : (s.uart.txb.head + 1) % s.cfg.nTx ≠ s.uart.txb.tail) (data : Byte) :
    uartWritePost data s = .ok ((s.setUart { s.uart with
      txb := { s.uart.txb with
        storage := s.uart.txb.storage.put .txb s.uart.txb.head data
        head := (s.uart.txb.head + 1) % s.cfg.nTx }
      transmitting := true, rxcie := true, dreie := true, txc := false }).respond 1) := by
  rw [uartWritePost, RingBuffer.store_of_room (RingBuffer.full_eq_false_iff.2 room) wf.head_lt, ok_bind]

/-- Storing a byte at the head of a legal ring keeps the memory legal, and every other byte (R65, R69). -/
theorem RingBuffer.put_head {id : MemId} {n : Nat} {rb : RingBuffer} (wf : rb.Wf id n) (b : Byte) :
    (rb.storage.put id rb.head b).wf id n = true ∧
      ∀ a, (rb.storage.put id rb.head b).byteAt id 0 a = if a = rb.head then b else rb.storage.byteAt id 0 a :=
  ⟨Memory.wf_put wf.storage_wf wf.head_lt b, Memory.byteAt_put wf.storage_wf 0 rb.head b⟩

theorem exec_uartWrite_of_not_begun {data : Byte} (idle : s.hstate = .idle) (closed : s.uart.begun = false) :
    exec (.uartWrite data) s = .next (s.raise .notBegun) := by
  simp only [exec, execUartWrite, hostCommand_of_idle idle, closed, Bool.false_eq_true, if_false, toOutcome_ok]

theorem exec_uartWrite_of_begun {data : Byte} (idle : s.hstate = .idle) (begun : s.uart.begun = true) :
    exec (.uartWrite data) s = toOutcome ((uartWriteWaiting data).issue (.uartWrite data) s) := by
  simp only [exec, execUartWrite, hostCommand_of_idle idle, begun, if_true]

/-- The issue step on a full ring: the retry, and the host waits (R118, R132). -/
theorem exec_uartWrite_of_full {data : Byte} {e : Bool} {t : State} (idle : s.hstate = .idle)
    (begun : s.uart.begun = true) (full : ¬ (s.uart.txb.head + 1) % s.cfg.nTx ≠ s.uart.txb.tail)
    (entry : s.ie = e) (retry : (uartWriteWaiting data).retry e s = .ok t) :
    exec (.uartWrite data) s = .next (t.setHost (.wait .uWrite e (.uartWrite data))) := by
  rw [exec_uartWrite_of_begun idle begun,
    Waiting.issue_of_not_ready entry (mt uartWriteWaiting_ready_iff.1 full) retry]
  rfl

/-- The poll step on a full ring: the retry (R118, R132). -/
theorem pollHost_uartWrite_of_full {data : Byte} {e : Bool} {t : State}
    (wait : s.hstate = .wait .uWrite e (.uartWrite data))
    (full : ¬ (s.uart.txb.head + 1) % s.cfg.nTx ≠ s.uart.txb.tail)
    (retry : (uartWriteWaiting data).retry e s = .ok t) : pollHost s = .next t :=
  pollHost_of_not_ready wait rfl (mt uartWriteWaiting_ready_iff.1 full) retry

/-- Settles O20: an issue step and a poll step store the byte on the same condition, and otherwise both do the
same retry. -/
theorem uartWriteStoresOrWaits : Obligations.UartWriteStoresOrWaits := by
  refine ⟨uartWrite_decodesAs, fun data s => ⟨fun idle closed => ?_, fun idle begun wf room => ?_,
    fun idle begun full on => ?_, fun idle begun full off held => ?_, fun idle begun full off free u run => ?_,
    fun e wait => ⟨fun wf room => ?_, fun full on => ?_, fun full off held => ?_, fun full off free u run => ?_⟩⟩⟩
  · rw [exec_uartWrite_of_not_begun idle closed]
    rfl
  · refine ⟨_, ?_, RingBuffer.put_head wf data⟩
    have ready : (uartWriteWaiting data).ready s.ie s = true := uartWriteWaiting_ready_iff.2 room
    have post : (uartWriteWaiting data).post s = _ := uartWritePost_of_room wf room data
    rw [exec_uartWrite_of_begun idle begun, Waiting.issue_of_ready ready, post, ← idle]
    rfl
  · exact exec_uartWrite_of_full idle begun full on rfl
  · exact exec_uartWrite_of_full idle begun full off (replayDre_of_held held)
  · exact exec_uartWrite_of_full idle begun full off (replayDre_of_run free run)
  · exact ⟨_, pollHost_of_ready wait rfl (uartWriteWaiting_ready_iff.2 room) (uartWritePost_of_room wf room data),
      RingBuffer.put_head wf data⟩
  · subst on
    exact pollHost_uartWrite_of_full wait full rfl
  · subst off
    exact pollHost_uartWrite_of_full wait full (replayDre_of_held held)
  · subst off
    exact pollHost_uartWrite_of_full wait full (replayDre_of_run free run)

end Sys2Proof.Machine
end

section
/-! PROOFS. The UART handlers and the arrival of a byte (42_uart_events.md R150, R154, R156 to R158): the next
state of each dispatch, branch by branch. -/

namespace Sys2Proof.Machine

variable {s : State} {p : Params} {u : Uart}

/-! ### Dispatch -/

/-- With interrupts enabled and its source pending, the dispatcher runs the handler (R228). -/
theorem dispatch_of_pending {src : IrqSource} (on : s.ie = true) (pending : s.pending src = true) :
    dispatch src s = toOutcome (runHandler src s) :=
  if_pos ((State.dispatchEnabled_of_ie on src).trans pending)

/-! ### `ISR_UART_RX` -/

theorem State.pending_uartRx_iff :
    s.pending .uartRx = true ↔ s.uart.rxcie = true ∧ (s.uart.dr = true ∨ s.uart.rxSpur = true) := by
  simp only [State.pending, Uart.rxPending, Bool.and_eq_true, Bool.or_eq_true]

/-- The converse of `isrUartRx_eq_ok`: the handler runs, with a stored byte or with none (R156). -/
theorem isrUartRx_of_ring {rb : RingBuffer}
    (ring : (u.dr = false ∧ rb = u.rxb) ∨ (u.dr = true ∧ u.rxb.store .rxb p.nRx u.udrRx = .ok rb)) :
    isrUartRx p u = .ok { u with
      rtsAsserted := if p.rtsBound && u.rxb.nearFull p.nRx rtsMargin then true else u.rtsAsserted
      dr := false, rxSpur := false, rxb := rb } := by
  rcases ring with ⟨invalid, rfl⟩ | ⟨valid, stored⟩
  · simp only [isrUartRx, rxAccept_eq, invalid, Bool.false_eq_true, if_false]
  · simp only [isrUartRx, rxAccept_eq, valid, if_true, stored, ok_bind]

/-- The near-full test of the handler, by the bytes unread before the store (R68, R156). -/
theorem rtsOnReceive_iff :
    (p.rtsBound && u.rxb.nearFull p.nRx rtsMargin) = true ↔
      p.rtsBound = true ∧ p.nRx - 1 ≤ (u.rxb.contents .rxb p.nRx).length + 3 := by
  rw [Bool.and_eq_true, RingBuffer.nearFull_iff, RingBuffer.length_contents]
  rfl

/-- A legal ring has room exactly when it holds fewer than `N - 1` bytes (R67). -/
theorem RingBuffer.full_eq_false_iff_length {id : MemId} {n : Nat} {rb : RingBuffer} (wf : rb.Wf id n) :
    rb.full n = false ↔ (rb.contents id n).length < n - 1 := by
  rw [Bool.eq_false_iff, Ne, RingBuffer.full_iff_occ wf.head_lt wf.tail_lt, RingBuffer.length_contents]
  exact wf.occ_le.lt_iff_ne.symm

theorem dispatch_uartRx_of_ring {rb : RingBuffer} (on : s.ie = true) (pending : s.pending .uartRx = true)
    (ring : (s.uart.dr = false ∧ rb = s.uart.rxb) ∨
      (s.uart.dr = true ∧ s.uart.rxb.store .rxb s.cfg.nRx s.uart.udrRx = .ok rb)) :
    dispatch .uartRx s = .next { s with
      uart := { s.uart with
        rtsAsserted := if s.cfg.rtsBound = true ∧
          s.cfg.nRx - 1 ≤ (s.uart.rxb.contents .rxb s.cfg.nRx).length + 3 then true else s.uart.rtsAsserted
        dr := false, rxSpur := false, rxb := rb } } := by
  rw [dispatch_of_pending on pending, runHandler, isrUartRx_of_ring ring, ok_bind, toOutcome_ok]
  simp only [rtsOnReceive_iff, State.setUart]

/-- Settles O25: the ring after the handler is the old one without a valid byte and on a full ring, and else
the old one with the byte stored at its head. -/
theorem receiveHandlerStoresByte : Obligations.ReceiveHandlerStoresByte := by
  intro s on enabled flag wf old kept
  have pending : s.pending .uartRx = true := State.pending_uartRx_iff.2 ⟨enabled, flag⟩
  have room_iff := RingBuffer.full_eq_false_iff_length wf
  cases valid : s.uart.dr with
  | false =>
    have lost : ¬ kept := fun ⟨dr, _⟩ => by rw [valid] at dr; cases dr
    exact ⟨_, dispatch_uartRx_of_ring on pending (.inl ⟨valid, rfl⟩), fun _ => rfl, fun k => absurd k lost⟩
  | true =>
    cases full : s.uart.rxb.full s.cfg.nRx with
    | true =>
      have lost : ¬ kept := fun ⟨_, room⟩ => by rw [room_iff.2 room] at full; cases full
      exact ⟨_, dispatch_uartRx_of_ring on pending (.inr ⟨valid, RingBuffer.store_of_full full _⟩), fun _ => rfl,
        fun k => absurd k lost⟩
    | false =>
      have stores : kept := ⟨valid, room_iff.1 full⟩
      exact ⟨_, dispatch_uartRx_of_ring on pending (.inr ⟨valid, RingBuffer.store_of_room full wf.head_lt _⟩),
        fun lost => absurd stores lost,
        fun _ => ⟨rfl, rfl, RingBuffer.contents_append wf full _, (RingBuffer.put_head wf _).2⟩⟩

/-! ### `ISR_UART_DRE` -/

theorem State.pending_uartDre_iff : s.pending .uartDre = true ↔ s.uart.dreie = true ∧ s.uart.txhold = none := by
  rw [← Uart.dre_iff, ← Bool.and_eq_true]
  rfl

theorem dispatch_uartDre_of_run {u : Uart} (on : s.ie = true) (pending : s.pending .uartDre = true)
    (run : isrUartDre s.cfg s.uart = .ok u) : dispatch .uartDre s = .next (s.setUart u) := by
  rw [dispatch_of_pending on pending, runHandler, run, ok_bind, toOutcome_ok]

theorem ctsStop_iff : ctsStop p u = true ↔ p.ctsBound = true ∧ u.ctsIn = true := Bool.and_eq_true_iff

/-- `hwTxWrite` with the transmitter off is ignored (R154, D26). -/
theorem Uart.hwTxWrite_of_off {b : Byte} (off : u.txen = false) : u.hwTxWrite b = u := if_pos off

theorem Uart.hwTxWrite_of_free {b : Byte} (on : u.txen = true) (free : u.txshift = none) :
    u.hwTxWrite b = { u with txshift := some b } :=
  (if_neg ((Bool.not_eq_false _).mpr on)).trans (if_pos free)

theorem Uart.hwTxWrite_of_shifting {b : Byte} (on : u.txen = true) (shifting : u.txshift ≠ none) :
    u.hwTxWrite b = { u with txhold := some b } :=
  (if_neg ((Bool.not_eq_false _).mpr on)).trans (if_neg shifting)

/-- A CTS stop on a pin that can interrupt arms the edge interrupt (R157). -/
theorem isrUartDre_of_stop_armed (stop : ctsStop p u = true) (irq : p.ctsEdgeIrq = true) :
    isrUartDre p u = .ok { u with dreie := false, ctsEdge := false, ctsIe := true } := by
  have armed : ctsStop p { u with dreie := false } = true := stop
  simp only [isrUartDre, stop, armed, irq, Bool.true_or, Bool.and_self, if_true]

theorem isrUartDre_of_stop_unarmed (stop : ctsStop p u = true) (irq : p.ctsEdgeIrq = false) :
    isrUartDre p u = .ok { u with dreie := false } := by
  simp only [isrUartDre, stop, irq, Bool.true_or, if_true, Bool.and_false, Bool.false_eq_true, if_false]

theorem isrUartDre_of_drained (go : ctsStop p u = false) (drained : u.txb.empty = true) :
    isrUartDre p u = .ok { u with dreie := false } := by
  have unarmed : ctsStop p { u with dreie := false } = false := go
  simp only [isrUartDre, drained, unarmed, Bool.or_true, if_true, Bool.false_and, Bool.false_eq_true, if_false]

/-- Otherwise the oldest byte of the ring is written to the hardware (R157). -/
theorem isrUartDre_of_moving (go : ctsStop p u = false) (held : u.txb.empty = false) (lt : u.txb.tail < p.nTx) :
    isrUartDre p u = .ok (Uart.hwTxWrite { u with txb := { u.txb with tail := (u.txb.tail + 1) % p.nTx } }
      (u.txb.storage.byteAt .txb 0 u.txb.tail)) := by
  simp only [isrUartDre, go, held, Bool.or_self, Bool.false_eq_true, if_false, RingBuffer.take_of_some held lt, ok_bind]

/-- Settles O26: a stop, by its cause, or the byte at the tail goes where `hwTxWrite` puts it. -/
theorem transmitHandlerMovesByte : Obligations.TransmitHandlerMovesByte := by
  intro s on enabled free stop b txb
  have pending : s.pending .uartDre = true := State.pending_uartDre_iff.2 ⟨enabled, free⟩
  have go_of (go : ¬ stop) : ctsStop s.cfg s.uart = false := Bool.eq_false_iff.2 (mt ctsStop_iff.1 go)
  refine ⟨fun stopped irq => ?_, fun stopped irq => ?_, fun go drained => ?_, fun go held lt => ?_⟩
  · exact dispatch_uartDre_of_run on pending (isrUartDre_of_stop_armed (ctsStop_iff.2 stopped) irq)
  · exact dispatch_uartDre_of_run on pending (isrUartDre_of_stop_unarmed (ctsStop_iff.2 stopped) irq)
  · exact dispatch_uartDre_of_run on pending (isrUartDre_of_drained (go_of go) (RingBuffer.empty_iff.2 drained))
  · have nonempty : s.uart.txb.empty = false := Bool.eq_false_iff.2 (mt RingBuffer.empty_iff.1 held)
    have moves {v : Uart} (written : Uart.hwTxWrite { s.uart with txb := txb } b = v) :
        dispatch .uartDre s = .next (s.setUart v) := by
      subst written
      exact dispatch_uartDre_of_run on pending (isrUartDre_of_moving (go_of go) nonempty lt)
    exact ⟨fun txOn free => moves (Uart.hwTxWrite_of_free txOn free),
      fun txOn shifting => moves (Uart.hwTxWrite_of_shifting txOn shifting),
      fun txOff => moves (Uart.hwTxWrite_of_off txOff)⟩

/-! ### `ISR_UART_CTS` -/

theorem dispatch_uartCts_of_armed (on : s.ie = true) (armed : s.uart.ctsIe = true) (edge : s.uart.ctsEdge = true) :
    dispatch .uartCts s = .next (s.setUart (isrUartCts s.uart)) :=
  dispatch_of_pending on (Bool.and_eq_true_iff.2 ⟨armed, edge⟩)

/-- On a low CTS the callback resumes transmission if the ring holds a byte (R158). -/
theorem isrUartCts_of_low (low : u.ctsIn = false) :
    isrUartCts u = if u.txb.empty = true then { u with ctsEdge := false }
      else { u with ctsEdge := false, dreie := true } :=
  if_neg (Bool.eq_false_iff.1 low)

/-- On a high CTS the callback disarms itself (R158). -/
theorem isrUartCts_of_high (high : u.ctsIn = true) :
    isrUartCts u = { u with ctsEdge := false, ctsIe := false } := if_pos high

/-- Settles O27: the callback decides by the level of `CTS_IN`, and on a low one by the ring. -/
theorem ctsHandlerResumesOrDisarms : Obligations.CtsHandlerResumesOrDisarms := by
  intro s on armed edge
  rw [dispatch_uartCts_of_armed on armed edge]
  refine ⟨fun low held => ?_, fun low drained => ?_, fun high => ?_⟩
  · rw [isrUartCts_of_low low, if_neg (mt RingBuffer.empty_iff.1 held)]
    rfl
  · rw [isrUartCts_of_low low, if_pos (RingBuffer.empty_iff.2 drained)]
    rfl
  · rw [isrUartCts_of_high high]
    rfl

/-! ### `EV_RX_BYTE` -/

theorem evRxByte_decodesAs : DecodesAs .line 0xFFFFFF00 0x80000000 (fun w => .evRxByte (w.extractLsb' 0 8)) := by
  refine decodesAs_of_formatByte (fun w (unit : unitField w = 0x8) (op : opField w = 0x0) => ?_) (fun _ => rfl) rfl
  simp [decodeWord, unit, decodeLine, op, byteField]

/-- The stimulus is always enabled (R150). -/
theorem exec_evRxByte (data : Byte) (s : State) :
    exec (.evRxByte data) s = .next (s.setUart (s.uart.rxArrive data)) :=
  stimulus_of_enabled Iff.rfl rfl _

theorem Uart.rxArrive_of_kept (on : u.rxen = true) (free : u.dr = false) (b : Byte) :
    u.rxArrive b = { u with uartIn := u.uartIn ++ [b], udrRx := b, dr := true } :=
  if_pos (by rw [on, free]; rfl)

theorem Uart.rxArrive_of_lost (lost : u.rxen = false ∨ u.dr = true) (b : Byte) :
    u.rxArrive b = { u with uartIn := u.uartIn ++ [b] } := by
  refine if_neg ?_
  rcases lost with off | busy
  · simp only [off, Bool.false_and, Bool.false_eq_true, not_false_eq_true]
  · simp only [busy, Bool.not_true, Bool.and_false, Bool.false_eq_true, not_false_eq_true]

/-- Settles O28: the byte is logged whatever the state, and kept or lost by the receiver and its register. -/
theorem byteArrivalIsKeptOrLost : Obligations.ByteArrivalIsKeptOrLost := by
  refine ⟨evRxByte_decodesAs, fun data s => ⟨fun on free => ?_, fun lost => ?_⟩⟩
  · rw [exec_evRxByte, Uart.rxArrive_of_kept on free]
    rfl
  · rw [exec_evRxByte, Uart.rxArrive_of_lost lost]
    rfl

end Sys2Proof.Machine
end

section
/-! PROOFS. The `TWI` commands that do not wait (43_twi.md R170, R172, R173, R176 to R181): their encoding lines,
and the next state of each issue, check by check. -/

namespace Sys2Proof.Machine

variable {s : State}

/-! ### Encoding lines (R96) -/

theorem twiBegin_decodesAs :
    DecodesAs .host 0xFF000000 0x20000000
      (fun w => .twiBegin (w.extractLsb' 16 8) (w.extractLsb' 12 4) (w.extractLsb' 0 12).toNat) := by
  intro w h
  obtain ⟨unit, op⟩ : unitField w = 0x2 ∧ opField w = 0x0 := fields_of_masked h rfl rfl
  have row : decodeWord w = .ok (.twiBegin (ownField w) (speedField w) (lowCountField w).toNat) := by
    simp [decodeWord, unit, decodeTwi, op]
  exact decode_eq_ok.2 ⟨row, rfl⟩

theorem twiWrite_decodesAs : DecodesAs .host 0xFFFFFF00 0x22000000 (fun w => .twiWrite (w.extractLsb' 0 8)) := by
  refine decodesAs_of_formatByte (fun w (unit : unitField w = 0x2) (op : opField w = 0x2) => ?_) (fun _ => rfl) rfl
  simp [decodeWord, unit, decodeTwi, op, byteField]

theorem twiEndTx_decodesAs :
    DecodesAs .host 0xFFFFF000 0x23000000 (fun w => .twiEndTx (w.extractLsb' 0 12).toNat) := by
  intro w h
  obtain ⟨unit, op⟩ : unitField w = 0x2 ∧ opField w = 0x3 := fields_of_masked h rfl rfl
  have zero : w.extractLsb' 12 12 = 0 := slice_of_masked h rfl
  have row : decodeWord w = formatC w (.twiEndTx (lowCountField w).toNat) := by
    simp [decodeWord, unit, decodeTwi, op]
  rw [decode_eq_ok, row, formatC_eq_ok]
  exact ⟨⟨zero, rfl⟩, rfl⟩

/-! ### The guard of R222 -/

/-- Before `TWI_BEGIN` a guarded command faults, whatever it would do after (R222). -/
theorem hostCommand_ifTwiBegun_of_not_begun (idle : s.hstate = .idle) (closed : s.twi.begun = false)
    (body : State → Except Fault State) : hostCommand (ifTwiBegun body) s = .next (s.raise .notBegun) := by
  simp only [hostCommand_of_idle idle, ifTwiBegun, closed, Bool.false_eq_true, if_false, toOutcome_ok]

/-- After `TWI_BEGIN` a guarded command is its body (R222). -/
theorem hostCommand_ifTwiBegun_of_begun (idle : s.hstate = .idle) (begun : s.twi.begun = true)
    (body : State → Except Fault State) : hostCommand (ifTwiBegun body) s = toOutcome (body s) := by
  simp only [hostCommand_of_idle idle, ifTwiBegun, begun, if_true]

/-! ### Buffers with nothing to give or take -/

/-- A buffer in the other mode, or at its limit, accepts no byte (R75) and gives none (R76). -/
theorem TwiBuffer.not_open {tb : TwiBuffer} {mode other : BufMode} (h : tb.mode = other ∨ tb.lim ≤ tb.pos)
    (ne : mode ≠ other) : ¬ (tb.mode = mode ∧ tb.pos < tb.lim) := by
  rintro ⟨same, lt⟩
  rcases h with switched | le
  · exact ne (same.symm.trans switched)
  · exact Nat.not_lt.2 le lt

/-! ### `TWI_BEGIN` -/

theorem validSpeed_iff {speed : BitVec 4} : validSpeed speed = true ↔ speed = 0 ∨ speed = 1 := by
  rw [validSpeed, Bool.or_eq_true, beq_iff_eq, beq_iff_eq]
  rfl

theorem validSpeed_eq_false {speed : BitVec 4} (ne_zero : speed ≠ 0) (ne_one : speed ≠ 1) :
    validSpeed speed = false :=
  Bool.eq_false_iff.2 fun valid => (validSpeed_iff.1 valid).elim ne_zero ne_one

theorem twiDivisor_eq (p : Params) (speed : BitVec 4) :
    twiDivisor p speed = if speed = 0 then p.twiDivisor0 else p.twiDivisor1 := by
  simp only [twiDivisor, beq_iff_eq]
  rfl

/-- A controller that is not begun, or whose bus is idle, passes the first check of `TWI_BEGIN` (R170). -/
theorem Twi.begun_and_not_busIdle_eq_false {t : Twi} (h : t.begun = false ∨ t.busIdle = true) :
    (t.begun && !t.busIdle) = false := by
  rcases h with closed | free
  · rw [closed, Bool.false_and]
  · rw [free, Bool.not_true, Bool.and_false]

section
variable {own : Byte} {speed : BitVec 4} {cap : Nat}

theorem exec_twiBegin_of_busy (idle : s.hstate = .idle) (begun : s.twi.begun = true) (busy : s.twi.busIdle = false) :
    exec (.twiBegin own speed cap) s = .next (s.raise .twiBusy) := by
  simp only [exec, execTwiBegin, hostCommand_of_idle idle, begun, busy, Bool.not_false, Bool.and_self, if_true,
    toOutcome_ok]

/-- Past its first check, `TWI_BEGIN` looks at its operands: the speed, then the capacity (R170). -/
theorem exec_twiBegin_of_free (idle : s.hstate = .idle) (free : s.twi.begun = false ∨ s.twi.busIdle = true) :
    exec (.twiBegin own speed cap) s = .next (
      if validSpeed speed = false then s.respond (respStatus .invalidSpeed)
      else if cap = 0 then s.respond (respStatus .invalidCapacity)
      else if cap > s.cfg.twiBufMax then s.respond (respStatus .bufferAllocationFailure)
      else (s.setTwi (s.twi.begin s.cfg own speed cap)).respond (respStatus .ok)) := by
  simp only [exec, execTwiBegin, hostCommand_of_idle idle, Twi.begun_and_not_busIdle_eq_false free,
    Bool.false_eq_true, if_false, Bool.not_eq_true', ← apply_ite Except.ok, toOutcome_ok]

end

/-- Settles O31: the checks are the nested conditions of `exec_twiBegin_of_free`, and both buffers of
`Twi.begin` are new, so nothing is listed in them. -/
theorem twiBeginChecksThenConfigures : Obligations.TwiBeginChecksThenConfigures := by
  refine ⟨twiBegin_decodesAs, fun own speed cap s idle =>
    ⟨fun begun busy => ?_, fun free => ⟨fun ne_zero ne_one => ?_, fun legal empty => ?_, fun legal large => ?_,
      fun legal pos le => ?_⟩⟩⟩
  · exact exec_twiBegin_of_busy idle begun busy
  · rw [exec_twiBegin_of_free idle free, if_pos (validSpeed_eq_false ne_zero ne_one)]
    rfl
  all_goals have valid : ¬ validSpeed speed = false := ne_false_of_eq_true (validSpeed_iff.2 legal)
  · rw [exec_twiBegin_of_free idle free, if_neg valid, if_pos empty]
    rfl
  · rw [exec_twiBegin_of_free idle free, if_neg valid, if_neg (Nat.ne_zero_of_lt large), if_pos large]
    rfl
  · refine ⟨(s.twi.sendbuf.allocate s.twi.allocs).clear cap, (s.twi.recvbuf.allocate (s.twi.allocs + 1)).clear cap,
      s.twi.allocs + 2, ?_, ⟨rfl, rfl, rfl, Memory.wf_nil _ _⟩, ⟨rfl, rfl, rfl, Memory.wf_nil _ _⟩⟩
    rw [exec_twiBegin_of_free idle free, if_neg valid, if_neg pos.ne', if_neg (Nat.not_lt.2 le), ← twiDivisor_eq]
    rfl

/-! ### `TWI_WRITE` -/

section
variable {data : Byte}

theorem exec_twiWrite_of_not_composing (idle : s.hstate = .idle) (begun : s.twi.begun = true)
    (closed : s.twi.txActive = false) : exec (.twiWrite data) s = .next (twiWriteError .writeNotStarted s) := by
  simp only [exec, execTwiWrite, hostCommand_ifTwiBegun_of_begun idle begun, closed, Bool.false_eq_true, if_false,
    toOutcome_ok]

/-- While a write is composed, the answer is the one of `Put` on the send buffer (R172). -/
theorem exec_twiWrite_of_put {accepted : Bool} {sb : TwiBuffer} (idle : s.hstate = .idle)
    (begun : s.twi.begun = true) (composing : s.twi.txActive = true)
    (put : s.twi.sendbuf.put .sendbuf s.twi.cap data = .ok (accepted, sb)) :
    exec (.twiWrite data) s = .next (
      if accepted = true then (s.setTwi { s.twi with sendbuf := sb }).respond 1
      else twiWriteError .sendBufferFull s) := by
  simp only [exec, execTwiWrite, hostCommand_ifTwiBegun_of_begun idle begun, composing, if_true, put, ok_bind,
    ← apply_ite Except.ok, toOutcome_ok]

end

/-- Settles O33: the answer of a composing controller is the one of `Put`, which writes the byte at `pos`. -/
theorem twiWriteAppendsOrRecordsError : Obligations.TwiWriteAppendsOrRecordsError := by
  refine ⟨twiWrite_decodesAs, fun data s idle => ⟨fun closed => ?_, fun begun closed => ?_,
    fun begun composing wf fill lt => ?_, fun begun composing full => ?_⟩⟩
  · exact hostCommand_ifTwiBegun_of_not_begun idle closed _
  · exact exec_twiWrite_of_not_composing idle begun closed
  · exact ⟨_, exec_twiWrite_of_put idle begun composing (TwiBuffer.put_of_room wf fill lt data),
      Memory.wf_put wf.data_wf (lt.trans_le wf.lim_le) data, Memory.byteAt_put wf.data_wf _ _ data⟩
  · exact exec_twiWrite_of_put idle begun composing (TwiBuffer.put_of_no_room (TwiBuffer.not_open full nofun) data)

/-! ### `TWI_END_TX` -/

/-- After `TWI_BEGIN`, the remaining checks of `TWI_END_TX` in their order (R173). -/
theorem exec_twiEndTx_of_begun {count : Nat} (idle : s.hstate = .idle) (begun : s.twi.begun = true) :
    exec (.twiEndTx count) s = .next (
      if s.twi.txActive = false then s.respond (respStatus .writeNotStarted)
      else if count > s.twi.cap then s.respond (respStatus .invalidCount)
      else if s.twi.busIdle = false then s.raise .twiBusy
      else (s.setTwi (s.twi.launchWrite count)).respond (respStatus .ok)) := by
  simp only [exec, execTwiEndTx, hostCommand_ifTwiBegun_of_begun idle begun, Bool.not_eq_true',
    ← apply_ite Except.ok, toOutcome_ok]

theorem TwiBuffer.flip_eq (tb : TwiBuffer) :
    tb.flip = if tb.mode = .fill then { tb with lim := tb.pos, pos := 0, mode := .drain } else tb := by
  cases h : tb.mode with
  | fill => rw [TwiBuffer.flip_of_fill h, if_pos rfl]
  | drain => rw [TwiBuffer.flip_of_drain h, if_neg nofun]

/-- Settles O34: the checks are the nested conditions of `exec_twiEndTx_of_begun`, and the started write is
`Twi.launchWrite`. -/
theorem twiEndTxStartsTransaction : Obligations.TwiEndTxStartsTransaction := by
  refine ⟨twiEndTx_decodesAs, fun count s idle => ⟨fun closed => ?_, fun begun closed => ?_,
    fun begun composing large => ?_, fun begun composing le busy => ?_, fun begun composing le free => ?_⟩⟩
  · exact hostCommand_ifTwiBegun_of_not_begun idle closed _
  · rw [exec_twiEndTx_of_begun idle begun, if_pos closed]
    rfl
  all_goals have active : ¬ s.twi.txActive = false := ne_false_of_eq_true composing
  · rw [exec_twiEndTx_of_begun idle begun, if_neg active, if_pos large]
    rfl
  · rw [exec_twiEndTx_of_begun idle begun, if_neg active, if_neg (Nat.not_lt.2 le), if_pos busy]
    rfl
  · rw [exec_twiEndTx_of_begun idle begun, if_neg active, if_neg (Nat.not_lt.2 le),
      if_neg (ne_false_of_eq_true free), ← TwiBuffer.flip_eq]
    rfl

/-! ### `TWI_READ` and `TWI_PEEK` -/

/-- `PeekB` answers the byte that `Get` takes (R76, R79). -/
theorem TwiBuffer.peekB_of_get {id : MemId} {cap : Nat} {tb tb' : TwiBuffer} {b : Option Byte}
    (get : tb.get id cap = .ok (b, tb')) : tb.peekB id cap = .ok b := by
  rcases TwiBuffer.get_eq_ok get with ⟨drain, lt, inside, taken⟩ | ⟨none_left, taken⟩
  · rw [TwiBuffer.peekB, if_pos ⟨drain, lt⟩, memRead_of_lt inside, ok_bind, (Prod.mk.inj taken).1]
  · rw [TwiBuffer.peekB, if_neg none_left, (Prod.mk.inj taken).1]

/-- `Get` needs of a draining buffer only that its limit is inside the memory (R76). -/
theorem TwiBuffer.get_of_lim_le {id : MemId} {cap : Nat} {tb : TwiBuffer} (le : tb.lim ≤ cap)
    (drain : tb.mode = .drain) (lt : tb.pos < tb.lim) :
    tb.get id cap = .ok (some (tb.data.byteAt id tb.draw tb.pos), { tb with pos := tb.pos + 1 }) := by
  rw [TwiBuffer.get, if_pos ⟨drain, lt⟩, memRead_of_lt (lt.trans_le le), ok_bind]

section
variable {b : Option Byte} {rb : TwiBuffer}

theorem exec_twiRead_of_get (idle : s.hstate = .idle) (begun : s.twi.begun = true)
    (get : s.twi.recvbuf.get .recvbuf s.twi.cap = .ok (b, rb)) :
    exec .twiRead s = .next ((s.setTwi { s.twi with recvbuf := rb }).respond (respOption b)) := by
  simp only [exec, execTwiRead, hostCommand_ifTwiBegun_of_begun idle begun, get, ok_bind, toOutcome_ok]

theorem exec_twiPeek_of_get (idle : s.hstate = .idle) (begun : s.twi.begun = true)
    (get : s.twi.recvbuf.get .recvbuf s.twi.cap = .ok (b, rb)) :
    exec .twiPeek s = .next (s.respond (respOption b)) := by
  simp only [exec, execTwiPeek, hostCommand_ifTwiBegun_of_begun idle begun, TwiBuffer.peekB_of_get get, ok_bind,
    toOutcome_ok]

end

/-- Settles O38: both commands answer the byte of `Get` on the receive buffer, and only `TWI_READ` keeps the
buffer that `Get` leaves. -/
theorem twiReadAndPeekGiveNextByte : Obligations.TwiReadAndPeekGiveNextByte := by
  refine ⟨decodesAs_of_word rfl, decodesAs_of_word rfl, fun s idle =>
    ⟨fun closed => ⟨?_, ?_⟩, fun begun le drain lt => ?_, fun begun ended => ?_⟩⟩
  · exact hostCommand_ifTwiBegun_of_not_begun idle closed _
  · exact hostCommand_ifTwiBegun_of_not_begun idle closed _
  · have get := TwiBuffer.get_of_lim_le (id := .recvbuf) le drain lt
    exact ⟨exec_twiRead_of_get idle begun get, exec_twiPeek_of_get idle begun get⟩
  · have get := TwiBuffer.get_of_none (id := .recvbuf) (cap := s.twi.cap) (TwiBuffer.not_open ended nofun)
    exact ⟨exec_twiRead_of_get idle begun get, exec_twiPeek_of_get idle begun get⟩

/-! ### `TWI_FLUSH`, `TWI_READY`, `TWI_RESULT` and `TWI_WRERR` -/

/-- A command that only answers is a step to the state with its response, begun or not (R103, R117). -/
theorem hostCommand_respond (idle : s.hstate = .idle) (answer : State → Word) :
    hostCommand (fun s => .ok (s.respond (answer s))) s = .next { s with resp := answer s } := by
  rw [hostCommand_of_idle idle, toOutcome_ok, State.respond]

/-- Settles O39: the body of each of the four commands is one response. -/
theorem twiQueriesOnlyAnswer : Obligations.TwiQueriesOnlyAnswer :=
  ⟨decodesAs_of_word rfl, decodesAs_of_word rfl, decodesAs_of_word rfl, decodesAs_of_word rfl, fun _ idle =>
    ⟨hostCommand_respond idle fun _ => 0, hostCommand_respond idle fun s => respBool s.twi.busIdle,
      hostCommand_respond idle fun s => respByte s.twi.tresult,
      hostCommand_respond idle fun s => respByte s.twi.werr⟩⟩

end Sys2Proof.Machine
end

section
/-! PROOFS. The TWI handler (44_twi_events.md R202 to R206): which branch of `ISR_TWI` runs, and the next state of
each, branch by branch. -/

namespace Sys2Proof.Machine

variable {s : State} {t : Twi}

/-! ### Dispatch -/

theorem Twi.anyFlag_iff : t.anyFlag = true ↔ t.wif = true ∨ t.rif = true ∨ t.arbf = true ∨ t.berf = true := by
  simp only [Twi.anyFlag, Bool.or_eq_true, or_assoc]

theorem dispatch_twi_of_run (on : s.ie = true) (enabled : s.twi.irqen = true)
    (flag : s.twi.wif = true ∨ s.twi.rif = true ∨ s.twi.arbf = true ∨ s.twi.berf = true)
    (run : isrTwi s.twi = .ok t) : dispatch .twi s = .next (s.setTwi t) := by
  have pending : s.pending .twi = true := Bool.and_eq_true_iff.2 ⟨enabled, Twi.anyFlag_iff.2 flag⟩
  rw [dispatch_of_pending on pending, runHandler, run, ok_bind, toOutcome_ok]

/-! ### The branch that runs (R202) -/

theorem isrTwi_of_arbf (arb : t.arbf = true) : isrTwi t = .ok (twiArbBranch t) := if_pos arb

theorem isrTwi_of_berf (noArb : t.arbf = false) (err : t.berf = true) : isrTwi t = .ok (twiBusErrBranch t) :=
  (if_neg (ne_true_of_eq_false noArb)).trans (if_pos err)

theorem isrTwi_of_no_error (noArb : t.arbf = false) (noErr : t.berf = false) :
    isrTwi t = if t.wif then twiWriteBranch t else if t.rif then twiReadBranch t else .ok t :=
  (if_neg (ne_true_of_eq_false noArb)).trans (if_neg (ne_true_of_eq_false noErr))

/-- Settles O41: each error flag selects its branch, an arbitration loss before a bus error. -/
theorem twiErrorBranchesRecord : Obligations.TwiErrorBranchesRecord := by
  intro s on enabled
  refine ⟨fun arb => ?_, fun noArb err => ?_⟩
  · exact dispatch_twi_of_run on enabled (.inr (.inr (.inl arb))) (isrTwi_of_arbf arb)
  · exact dispatch_twi_of_run on enabled (.inr (.inr (.inr err))) (isrTwi_of_berf noArb err)

/-! ### The WRITE branch (R205) -/

/-- The address of the repeated start is `SLA` with the read bit set (R205). -/
theorem slaRepeat_eq (sla : Byte) : slaRepeat sla = sla ||| 1 := by
  ext i lt
  rw [slaRepeat, BitVec.getElem_append]
  cases i with
  | zero => simp
  | succ i => simp [Nat.add_comm, BitVec.getLsbD_eq_getElem lt]

@[simp] theorem addrEng_slaRepeat (sla : Byte) : addrEng (slaRepeat sla) = .addrR := by
  simp [addrEng, slaRepeat_eq]

theorem twiWriteBranch_of_nack (nack : t.nackf = true) : twiWriteBranch t = .ok (t.stop.finish .nack) := if_pos nack

theorem twiWriteBranch_of_byte (ack : t.nackf = false) (le : t.sendbuf.lim ≤ t.cap)
    (more : t.sendbuf.mode = .drain ∧ t.sendbuf.pos < t.sendbuf.lim) :
    twiWriteBranch t = .ok { { t with sendbuf := { t.sendbuf with pos := t.sendbuf.pos + 1 } }.dataWrite
      (t.sendbuf.data.byteAt .sendbuf t.sendbuf.draw t.sendbuf.pos) with tstate := .writingData } := by
  rw [twiWriteBranch, if_neg (ne_true_of_eq_false ack), if_pos (TwiBuffer.remaining_pos_iff.2 more),
    TwiBuffer.get_of_lim_le le more.1 more.2, ok_bind]

theorem twiWriteBranch_of_sent (ack : t.nackf = false)
    (sent : ¬ (t.sendbuf.mode = .drain ∧ t.sendbuf.pos < t.sendbuf.lim)) :
    twiWriteBranch t = if t.srs > 0 then .ok { t.addrRestart (slaRepeat t.sla) with tstate := .repeatedStart }
      else .ok (t.stop.finish .success) := by
  rw [twiWriteBranch, if_neg (ne_true_of_eq_false ack), if_neg (mt TwiBuffer.remaining_pos_iff.1 sent)]

theorem Twi.addrRestart_slaRepeat (t : Twi) :
    t.addrRestart (slaRepeat t.sla) = { t with
      twiOut := t.twiOut ++ [.rstart (t.sla ||| 1)], eng := .addrR, busIdle := false, wif := false, rif := false } := by
  rw [Twi.addrRestart, addrEng_slaRepeat, slaRepeat_eq, Twi.act]

/-- Settles O42: the four cases are those of `twiWriteBranch`, with `more` for `Remaining(SENDBUF) > 0`. -/
theorem twiWriteBranchSendsNext : Obligations.TwiWriteBranchSendsNext := by
  intro s on enabled noArb noErr wif t sb more
  have runs {n : Twi} (branch : twiWriteBranch s.twi = .ok n) : dispatch .twi s = .next (s.setTwi n) :=
    dispatch_twi_of_run on enabled (.inl wif) <|
      calc isrTwi s.twi = twiWriteBranch s.twi := by rw [isrTwi_of_no_error noArb noErr, if_pos wif]
        _ = .ok n := branch
  refine ⟨fun nack => ?_, fun ack left le => ?_, fun ack sent reading => ?_, fun ack sent done => ?_⟩
  · exact runs (twiWriteBranch_of_nack nack)
  · exact runs (twiWriteBranch_of_byte ack le left)
  · rw [runs ((twiWriteBranch_of_sent ack sent).trans (if_pos reading)), Twi.addrRestart_slaRepeat]
    rfl
  · exact runs ((twiWriteBranch_of_sent ack sent).trans (if_neg (Nat.not_lt.2 done.le)))

/-! ### The READ branch (R206) -/

theorem twiReadBranch_of_keep {k : Twi} (keep : twiKeepByte t = .ok k) : twiReadBranch t = .ok (twiReadNext k) := by
  rw [twiReadBranch, keep, ok_bind]

theorem twiKeepByte_of_none (done : t.srs = 0) : twiKeepByte t = .ok t := if_neg (Nat.not_lt.2 done.le)

/-- An expected byte with room in the buffer is put at `pos` and counted down (R75, R206). -/
theorem twiKeepByte_of_room {n : Nat} (wf : t.recvbuf.Wf .recvbuf t.cap) (fill : t.recvbuf.mode = .fill)
    (room : t.recvbuf.pos < t.recvbuf.lim) (expected : 0 < t.srs)
    (left : t.srs - 1 = n) : twiKeepByte t = .ok { t with
      recvbuf := { t.recvbuf with
        data := t.recvbuf.data.put .recvbuf t.recvbuf.pos t.dataIn, pos := t.recvbuf.pos + 1 }
      srs := n } := by
  rw [← left, twiKeepByte, if_pos expected, TwiBuffer.put_of_room wf fill room, ok_bind]

theorem twiReadNext_of_expected (expected : 0 < t.srs) :
    twiReadNext t = { t.ackContinue with tstate := .readingData } := if_pos expected

/-- With no more bytes expected the transfer ends and the filled buffer becomes readable (R77, R206). -/
theorem twiReadNext_of_done (done : t.srs = 0) (fill : t.recvbuf.mode = .fill) :
    twiReadNext t = Twi.finish { t.nackStop with
      recvbuf := { t.recvbuf with lim := t.recvbuf.pos, pos := 0, mode := .drain } } .success := by
  rw [twiReadNext, if_neg (Nat.not_lt.2 done.le), TwiBuffer.flip_of_fill fill]

/-- Settles O43: a kept byte is a `Put` with room, whose memory `wf_put` and `byteAt_put` describe; what follows
it is decided by the bytes still expected. -/
theorem twiReadBranchKeepsByte : Obligations.TwiReadBranchKeepsByte := by
  intro s on enabled noArb noErr noWif rif t rb puts
  have runs {k n : Twi} (keep : twiKeepByte s.twi = .ok k) (next : twiReadNext k = n) :
      dispatch .twi s = .next (s.setTwi n) :=
    dispatch_twi_of_run on enabled (.inr (.inl rif)) <|
      calc isrTwi s.twi = twiReadBranch s.twi := by
            rw [isrTwi_of_no_error noArb noErr, if_neg (ne_true_of_eq_false noWif), if_pos rif]
        _ = .ok n := by rw [twiReadBranch_of_keep keep, next]
  have put (wf : rb.Wf .recvbuf t.cap) (room : rb.pos < rb.lim) : puts (rb.data.put .recvbuf rb.pos t.dataIn) :=
    ⟨Memory.wf_put wf.data_wf (room.trans_le wf.lim_le) _, Memory.byteAt_put wf.data_wf _ _ _⟩
  refine ⟨fun wf fill room expected => ⟨_, ?_, put wf room⟩, fun wf fill room last => ⟨_, ?_, put wf room⟩,
    fun fill done => ?_⟩
  · exact runs (twiKeepByte_of_room wf fill room (Nat.zero_lt_of_lt expected) rfl)
      (twiReadNext_of_expected (Nat.sub_pos_of_lt expected))
  · exact runs (twiKeepByte_of_room wf fill room (last ▸ Nat.one_pos) (Nat.sub_eq_of_eq_add last))
      (twiReadNext_of_done rfl fill)
  · exact runs (twiKeepByte_of_none done) (twiReadNext_of_done done fill)

end Sys2Proof.Machine
end

section
/-! PROOFS. The dispatcher (60_exceptions.md R225, R228) and what a handler run leaves as it was (60_exceptions.md
R231): the host, `IE`, the other device, and the cells of its own device that no handler writes. -/

namespace Sys2Proof.Machine

variable {s t : State} {p : Params} {u v : Uart} {w n : Twi}

/-! ### The cells that no UART handler writes -/

/-- `v` has the begun bit, `CTS_IN` and the byte logs of `u`. -/
structure Uart.KeepsLine (u v : Uart) : Prop where
  begun : v.begun = u.begun
  ctsIn : v.ctsIn = u.ctsIn
  uartOut : v.uartOut = u.uartOut
  uartIn : v.uartIn = u.uartIn

/-- A byte goes to the hardware; it reaches the wire only at `EV_TX_SHIFT_DONE` (R152, R154). -/
theorem Uart.hwTxWrite_keepsLine (u : Uart) (b : Byte) : u.KeepsLine (u.hwTxWrite b) := by
  rcases hwTxWrite_cases u b with ⟨-, written⟩ | ⟨-, -, written⟩ | ⟨-, -, written⟩ <;>
    exact written.symm ▸ ⟨rfl, rfl, rfl, rfl⟩

theorem isrUartRx_keepsLine (run : isrUartRx p u = .ok v) : u.KeepsLine v := by
  obtain ⟨rb, rfl, -⟩ := isrUartRx_eq_ok run
  exact ⟨rfl, rfl, rfl, rfl⟩

theorem isrUartDre_keepsLine (run : isrUartDre p u = .ok v) : u.KeepsLine v := by
  rcases isrUartDre_eq_ok run with ⟨-, rfl | ⟨-, -, rfl⟩⟩ | ⟨-, -, -, rfl⟩
  · exact ⟨rfl, rfl, rfl, rfl⟩
  · exact ⟨rfl, rfl, rfl, rfl⟩
  · obtain ⟨begun, ctsIn, uartOut, uartIn⟩ := Uart.hwTxWrite_keepsLine
      { u with txb := { u.txb with tail := (u.txb.tail + 1) % p.nTx } } (u.txb.storage.byteAt .txb 0 u.txb.tail)
    exact ⟨begun, ctsIn, uartOut, uartIn⟩

theorem isrUartCts_keepsLine (u : Uart) : u.KeepsLine (isrUartCts u) := by
  rcases isrUartCts_cases u with ⟨-, called⟩ | ⟨-, -, called⟩ | ⟨-, -, called⟩ <;>
    exact called.symm ▸ ⟨rfl, rfl, rfl, rfl⟩

/-! ### The cells that the TWI handler does not write -/

/-- `n` has the begun bit, the address byte and the capacity of `w`: what the commands set up. -/
structure Twi.KeepsSetup (w n : Twi) : Prop where
  begun : n.begun = w.begun
  sla : n.sla = w.sla
  cap : n.cap = w.cap

/-- The address byte of a repeated start is sent and not kept in `SLA` (R205). -/
theorem twiWriteBranch_keepsSetup (run : twiWriteBranch w = .ok n) : w.KeepsSetup n := by
  rcases twiWriteBranch_eq_ok run with ⟨-, rfl⟩ | ⟨-, -, -, rfl⟩ | ⟨-, -, -, rfl⟩ | ⟨-, -, -, rfl⟩ <;>
    exact ⟨rfl, rfl, rfl⟩

theorem twiKeepByte_keepsSetup (run : twiKeepByte w = .ok n) : w.KeepsSetup n := by
  rcases twiKeepByte_eq_ok run with ⟨-, rfl⟩ | ⟨-, r, -, rfl⟩ <;> exact ⟨rfl, rfl, rfl⟩

theorem twiReadNext_keepsSetup (w : Twi) : w.KeepsSetup (twiReadNext w) := by
  unfold twiReadNext
  split <;> exact ⟨rfl, rfl, rfl⟩

theorem twiReadBranch_keepsSetup (run : twiReadBranch w = .ok n) : w.KeepsSetup n := by
  obtain ⟨k, keep, rfl⟩ := twiReadBranch_eq_ok run
  have kept := twiKeepByte_keepsSetup keep
  have next := twiReadNext_keepsSetup k
  exact ⟨next.begun.trans kept.begun, next.sla.trans kept.sla, next.cap.trans kept.cap⟩

/-- Each of the branches of R202 keeps what the commands set up. -/
theorem isrTwi_keepsSetup (run : isrTwi w = .ok n) : w.KeepsSetup n := by
  rcases isrTwi_eq_ok run with ⟨-, rfl⟩ | ⟨-, -, rfl⟩ | ⟨-, -, -, write⟩ | ⟨-, -, -, -, read⟩ | ⟨-, rfl⟩
  · exact ⟨rfl, rfl, rfl⟩
  · exact ⟨rfl, rfl, rfl⟩
  · exact twiWriteBranch_keepsSetup write
  · exact twiReadBranch_keepsSetup read
  · exact ⟨rfl, rfl, rfl⟩

/-! ### Handler runs -/

/-- A handler run is the update of one device: the TWI handler's of the controller, a UART handler's of the
channel (R231). -/
theorem runHandler_writes_one_device {src : IrqSource} (run : runHandler src s = .ok t) :
    (src ≠ .twi ∧ ∃ u, t = s.setUart u ∧ s.uart.KeepsLine u) ∨
      (src = .twi ∧ ∃ w, t = s.setTwi w ∧ s.twi.KeepsSetup w) := by
  rcases runHandler_eq_ok run with ⟨u, rfl, ⟨rfl, rx⟩ | ⟨rfl, dre⟩ | ⟨rfl, rfl⟩⟩ | ⟨w, rfl, rfl, twi⟩
  · exact .inl ⟨nofun, u, rfl, isrUartRx_keepsLine rx⟩
  · exact .inl ⟨nofun, u, rfl, isrUartDre_keepsLine dre⟩
  · exact .inl ⟨nofun, _, rfl, isrUartCts_keepsLine s.uart⟩
  · exact .inr ⟨rfl, w, rfl, isrTwi_keepsSetup twi⟩

/-- Settles O24: a dispatch with a next state is a handler run, which updates the one device. -/
theorem handlerRunKeepsHostState : Obligations.HandlerRunKeepsHostState := by
  intro src s t next
  obtain ⟨-, -, run⟩ := dispatch_eq_next next
  rcases runHandler_writes_one_device run with ⟨uart, u, rfl, kept⟩ | ⟨twi, w, rfl, kept⟩
  · exact ⟨rfl, fun twi => absurd twi uart, fun _ => ⟨rfl, kept.begun, kept.ctsIn, kept.uartOut, kept.uartIn⟩⟩
  · exact ⟨rfl, fun _ => ⟨rfl, kept.begun, kept.sla, kept.cap⟩, fun uart => absurd twi uart⟩

/-! ### Dispatch -/

/-- A dispatch with interrupts disabled, or for a source that is not pending, is refused (R228, log 6). -/
theorem dispatch_of_not_enabled {src : IrqSource} (blocked : s.ie = false ∨ s.pending src = false) :
    dispatch src s = .refused .dispatchNotEnabled := by
  have disabled : s.dispatchEnabled src = false := Bool.and_eq_false_iff.2 blocked
  exact if_neg (ne_true_of_eq_false disabled)

/-- Settles O23: the four conditions are the definitions of R225, and the dispatcher tests `IE` and them. -/
theorem dispatchNeedsIEAndPending : Obligations.DispatchNeedsIEAndPending := fun _ =>
  ⟨rfl, rfl, rfl, rfl, fun _ => ⟨dispatch_of_pending, dispatch_of_not_enabled⟩⟩

end Sys2Proof.Machine
end

section
/-! PROOFS. Reset (70_reset_and_hazards.md R245): the constructed rings read as zero, the TWI buffers are not
allocated, and each device holds the values of the table. -/

namespace Sys2Proof.Machine

/-! ### The buffers as constructed -/

/-- The storage of a constructed ring lists no byte, so it reads as the byte that the memory never lists:
zero, for a memory `id` of a ring (R26, R27). -/
theorem RingBuffer.zeroed_byteAt {id : MemId} (ring : neverListed id = some 0) (draw i : Nat) :
    RingBuffer.zeroed.storage.byteAt id draw i = 0 :=
  unlisted_of_neverListed ring draw i

/-- `RXB` and `TXB` at reset: storage all 0 and empty at index 0 (R26, R27). -/
theorem RingBuffer.zeroed_values {id : MemId} (ring : neverListed id = some 0) :
    (∀ a, RingBuffer.zeroed.storage.byteAt id 0 a = 0) ∧ RingBuffer.zeroed.head = 0 ∧ RingBuffer.zeroed.tail = 0 :=
  ⟨zeroed_byteAt ring 0, rfl, rfl⟩

/-- `SENDBUF` and `RECVBUF` at reset: unallocated (R41). -/
theorem TwiBuffer.unallocated_values :
    TwiBuffer.unallocated.data = [] ∧ TwiBuffer.unallocated.pos = 0 ∧ TwiBuffer.unallocated.lim = 0 ∧
      TwiBuffer.unallocated.mode = .fill :=
  ⟨rfl, rfl, rfl, rfl⟩

/-! ### The devices -/

section
variable (d : ResetDraws)

/-- The modes, enables and receive flags of the UART channel start off (R28, R29, R31 to R34). -/
theorem Uart.reset_flags :
    let u := Uart.reset d
    u.begun = false ∧ u.transmitting = false ∧ u.rxen = false ∧ u.txen = false ∧
      u.rxcie = false ∧ u.dreie = false ∧ u.dr = false ∧ u.rxSpur = false :=
  ⟨rfl, rfl, rfl, rfl, rfl, rfl, rfl, rfl⟩

/-- The transmitter starts empty, so `DRE`, which is derived from `TXHOLD`, is 1 (R35, R36). -/
theorem Uart.reset_transmitter :
    let u := Uart.reset d
    u.txhold = none ∧ u.txshift = none ∧ u.dre = true ∧ u.txc = false :=
  ⟨rfl, rfl, Option.isNone_none, rfl⟩

/-- RTS is not driven and the CTS edge interrupt is off (R37, R39). -/
theorem Uart.reset_flowControl :
    let u := Uart.reset d
    u.rtsDriven = false ∧ u.rtsAsserted = false ∧ u.ctsIe = false ∧ u.ctsEdge = false :=
  ⟨rfl, rfl, rfl, rfl⟩

/-- No transfer of the TWI controller is set up or under way (R43 to R50). -/
theorem Twi.reset_transfer :
    let w := Twi.reset d
    w.sla = 0 ∧ w.srs = 0 ∧ w.txActive = false ∧ w.werr = 0 ∧ w.tresult = 0 ∧ w.tstate = .idle ∧
      w.busIdle = false ∧ w.irqen = false :=
  ⟨rfl, rfl, rfl, rfl, rfl, rfl, rfl, rfl⟩

/-- The hardware flags of the TWI controller are clear and its engine rests (R51, R52, R54). -/
theorem Twi.reset_hardware :
    let w := Twi.reset d
    w.wif = false ∧ w.rif = false ∧ w.nackf = false ∧ w.arbf = false ∧ w.berf = false ∧ w.eng = .none :=
  ⟨rfl, rfl, rfl, rfl, rfl, rfl⟩

end

/-- Settles O51: the table of R245 group by group, the host and the logs by the reset state itself. -/
theorem resetValues : Obligations.ResetValues := by
  refine ⟨rfl, fun p d => ?_⟩
  have host : (State.resetWith p d).ie = false ∧ (State.resetWith p d).fault = 0 ∧
      (State.resetWith p d).hstate = .idle := ⟨rfl, rfl, rfl⟩
  have logs : (Uart.reset d).uartOut = [] ∧ (Twi.reset d).twiOut = [] ∧ (Uart.reset d).uartIn = [] :=
    ⟨rfl, rfl, rfl⟩
  exact ⟨host, RingBuffer.zeroed_values rfl, RingBuffer.zeroed_values rfl, Uart.reset_flags d,
    Uart.reset_transmitter d, Uart.reset_flowControl d, ⟨rfl, rfl⟩, TwiBuffer.unallocated_values,
    TwiBuffer.unallocated_values, Twi.reset_transfer d, Twi.reset_hardware d, logs⟩

end Sys2Proof.Machine
end

section
/-! PROOFS. The encoder, the decoder and the printed rows (30_encoding.md R90 to R99): a word taken apart and put
together again, the row of each instruction, and the instruction of each row. -/

namespace Sys2Proof

open Machine (DecodesAs decodesAs_of_word decodesAs_of_formatByte uartBegin_decodesAs uartWrite_decodesAs
  twiBegin_decodesAs twiWrite_decodesAs twiEndTx_decodesAs evRxByte_decodesAs evCts_decodesAs evTwiRxbyte_decodesAs)

variable {w : Word} {i : Instr}

/-! ### A word and its fields -/

/-- Two neighbouring slices are one. -/
theorem slice_append_slice {m : Nat} (x : BitVec m) (a k l : Nat) :
    x.extractLsb' (a + k) l ++ x.extractLsb' a k = x.extractLsb' a (l + k) :=
  BitVec.extractLsb'_append_extractLsb'_eq_extractLsb' rfl

/-- A word is its unit, its operation and its operand (R90). -/
theorem mkWord_fields (w : Word) : mkWord (unitField w) (opField w) (w.extractLsb' 0 24) = w :=
  calc unitField w ++ opField w ++ w.extractLsb' 0 24
    _ = w.extractLsb' 24 8 ++ w.extractLsb' 0 24 := congrArg (· ++ w.extractLsb' 0 24) (slice_append_slice w 24 4 4)
    _ = w.extractLsb' 0 32 := slice_append_slice w 0 24 8
    _ = w := BitVec.extractLsb'_eq_self

theorem mkWord_eq_of_fields {unit op : BitVec 4} {x : BitVec 24} (hu : unitField w = unit) (ho : opField w = op)
    (hx : x = w.extractLsb' 0 24) : mkWord unit op x = w := by
  rw [← hu, ← ho, hx, mkWord_fields]

/-- The operand of format `B` or `A` is its byte, if its other bits are zero (R92). -/
theorem byteOperand_byteField (zero : w.extractLsb' 8 16 = 0) : byteOperand (byteField w) = w.extractLsb' 0 24 :=
  (congrArg (· ++ byteField w) zero.symm).trans (slice_append_slice w 0 8 16)

/-- A field read as a number and written again is the field. -/
theorem ofNat_toNat_self {n : Nat} (x : BitVec n) : BitVec.ofNat n x.toNat = x := by
  rw [BitVec.ofNat_toNat, BitVec.setWidth_eq]

/-! ### What a unit accepts encodes back to the word -/

/-- What the decoder promises of a word it reads as `i` (R90 to R99). -/
def EncodesAs (w : Word) (i : Instr) : Prop := i.wellFormed = true ∧ encode i = w

/-- Format `N`: an instruction without operand. -/
theorem encodesAs_of_formatN {j : Instr} {unit op : BitVec 4} (hu : unitField w = unit) (ho : opField w = op)
    (h : formatN w j = .ok i) (wf : j.wellFormed = true) (enc : encode j = mkWord unit op 0) : EncodesAs w i := by
  obtain ⟨zero, rfl⟩ := formatN_eq_ok.1 h
  exact ⟨wf, enc.trans (mkWord_eq_of_fields hu ho zero.symm)⟩

/-- Formats `B` and `A`: an instruction with the low byte as its operand. -/
theorem encodesAs_of_formatByte {j : Instr} {unit op : BitVec 4} (hu : unitField w = unit) (ho : opField w = op)
    (h : formatByte w j = .ok i) (wf : j.wellFormed = true)
    (enc : encode j = mkWord unit op (byteOperand (byteField w))) : EncodesAs w i := by
  obtain ⟨zero, rfl⟩ := formatByte_eq_ok.1 h
  exact ⟨wf, enc.trans (mkWord_eq_of_fields hu ho (byteOperand_byteField zero))⟩

theorem encodesAs_of_decodeSys (hu : unitField w = 0x0) (h : decodeSys w = .ok i) : EncodesAs w i := by
  unfold decodeSys at h
  split at h
  case h_1 op | h_2 op => exact encodesAs_of_formatN hu op h rfl rfl
  case h_3 => cases h

theorem encodesAs_uartBegin (hu : unitField w = 0x1) (ho : opField w = 0x0) :
    EncodesAs w (.uartBegin (frameField w) (baudField w).toNat) := by
  refine ⟨decide_eq_true (baudField w).isLt, mkWord_eq_of_fields hu ho ?_⟩
  rw [ofNat_toNat_self]
  exact slice_append_slice w 0 20 4

theorem encodesAs_of_decodeUart (hu : unitField w = 0x1) (h : decodeUart w = .ok i) : EncodesAs w i := by
  unfold decodeUart at h
  split at h
  case h_1 op => exact Except.ok.inj h ▸ encodesAs_uartBegin hu op
  case h_6 op => exact encodesAs_of_formatByte hu op h rfl rfl
  case h_8 => cases h
  all_goals next op => exact encodesAs_of_formatN hu op h rfl rfl

theorem encodesAs_twiBegin (hu : unitField w = 0x2) (ho : opField w = 0x0) :
    EncodesAs w (.twiBegin (ownField w) (speedField w) (lowCountField w).toNat) := by
  refine ⟨decide_eq_true (lowCountField w).isLt, mkWord_eq_of_fields hu ho ?_⟩
  rw [ofNat_toNat_self]
  exact (congrArg (· ++ lowCountField w) (slice_append_slice w 12 4 8)).trans (slice_append_slice w 0 12 12)

theorem encodesAs_twiEndTx (hu : unitField w = 0x2) (ho : opField w = 0x3) (zero : w.extractLsb' 12 12 = 0) :
    EncodesAs w (.twiEndTx (lowCountField w).toNat) := by
  refine ⟨decide_eq_true (lowCountField w).isLt, mkWord_eq_of_fields hu ho ?_⟩
  rw [ofNat_toNat_self]
  exact (congrArg (· ++ lowCountField w) zero.symm).trans (slice_append_slice w 0 12 12)

theorem encodesAs_twiRequest (hu : unitField w = 0x2) (ho : opField w = 0x4) (zero : w.extractLsb' 8 4 = 0) :
    EncodesAs w (.twiRequest (byteField w) (highCountField w).toNat) := by
  refine ⟨decide_eq_true (highCountField w).isLt, mkWord_eq_of_fields hu ho ?_⟩
  have high : highCountField w ++ 0#4 = w.extractLsb' 8 16 :=
    (congrArg (highCountField w ++ ·) zero.symm).trans (slice_append_slice w 8 4 12)
  rw [ofNat_toNat_self]
  exact (congrArg (· ++ byteField w) high).trans (slice_append_slice w 0 8 16)

theorem encodesAs_of_decodeTwi (hu : unitField w = 0x2) (h : decodeTwi w = .ok i) : EncodesAs w i := by
  unfold decodeTwi at h
  split at h
  case h_1 op => exact Except.ok.inj h ▸ encodesAs_twiBegin hu op
  case h_2 op | h_3 op => exact encodesAs_of_formatByte hu op h rfl rfl
  case h_4 op =>
    obtain ⟨zero, rfl⟩ := formatC_eq_ok.1 h
    exact encodesAs_twiEndTx hu op zero
  case h_5 op =>
    obtain ⟨zero, rfl⟩ := formatRQ_eq_ok.1 h
    exact encodesAs_twiRequest hu op zero
  case h_13 => cases h
  all_goals next op => exact encodesAs_of_formatN hu op h rfl rfl

theorem encodesAs_evCts (hu : unitField w = 0x8) (ho : opField w = 0x3) (zero : w.extractLsb' 1 23 = 0) :
    EncodesAs w (.evCts (levelField w == 1#1)) := by
  have bit : ∀ x : BitVec 1, BitVec.ofBool (x == 1#1) = x := by decide
  refine ⟨rfl, mkWord_eq_of_fields hu ho ?_⟩
  rw [bit]
  exact (congrArg (· ++ levelField w) zero.symm).trans (slice_append_slice w 0 1 23)

theorem encodesAs_of_decodeLine (hu : unitField w = 0x8) (h : decodeLine w = .ok i) : EncodesAs w i := by
  unfold decodeLine at h
  split at h
  case h_1 op => exact encodesAs_of_formatByte hu op h rfl rfl
  case h_2 op | h_3 op => exact encodesAs_of_formatN hu op h rfl rfl
  case h_4 op =>
    obtain ⟨zero, rfl⟩ := formatL_eq_ok.1 h
    exact encodesAs_evCts hu op zero
  case h_5 => cases h

theorem encodesAs_of_decodeBus (hu : unitField w = 0x9) (h : decodeBus w = .ok i) : EncodesAs w i := by
  unfold decodeBus at h
  split at h
  case h_3 op => exact encodesAs_of_formatByte hu op h rfl rfl
  case h_7 => cases h
  all_goals next op => exact encodesAs_of_formatN hu op h rfl rfl

theorem encodesAs_of_decodeWord (h : decodeWord w = .ok i) : EncodesAs w i := by
  unfold decodeWord at h
  split at h
  case h_1 unit => exact encodesAs_of_decodeSys unit h
  case h_2 unit => exact encodesAs_of_decodeUart unit h
  case h_3 unit => exact encodesAs_of_decodeTwi unit h
  case h_4 unit => exact encodesAs_of_decodeLine unit h
  case h_5 unit => exact encodesAs_of_decodeBus unit h
  case h_6 => cases h

/-- Settles O2: a unit accepts a word only with its must-be-zero bits zero, so its fields are all of it. -/
theorem encodeInvertsDecode : Obligations.EncodeInvertsDecode := by
  intro o w i h
  obtain ⟨row, origin⟩ := decode_eq_ok.1 h
  obtain ⟨wf, word⟩ := encodesAs_of_decodeWord row
  exact ⟨wf, origin, word⟩

/-! ### The instruction of each row -/

theorem twiBeginTx_decodesAs :
    DecodesAs .host 0xFFFFFF00 0x21000000 (fun w => .twiBeginTx (w.extractLsb' 0 8)) := by
  refine decodesAs_of_formatByte (fun w (unit : unitField w = 0x2) (op : opField w = 0x1) => ?_) (fun _ => rfl) rfl
  simp [decodeWord, unit, decodeTwi, op, byteField]

theorem twiRequest_decodesAs :
    DecodesAs .host 0xFF000F00 0x24000000
      (fun w => .twiRequest (w.extractLsb' 0 8) (w.extractLsb' 12 12).toNat) := by
  intro w h
  obtain ⟨unit, op⟩ : unitField w = 0x2 ∧ opField w = 0x4 := fields_of_masked h rfl rfl
  have zero : w.extractLsb' 8 4 = 0 := slice_of_masked h rfl
  have row : decodeWord w = formatRQ w (.twiRequest (byteField w) (highCountField w).toNat) := by
    simp [decodeWord, unit, decodeTwi, op]
  rw [decode_eq_ok, row, formatRQ_eq_ok]
  exact ⟨⟨zero, rfl⟩, rfl⟩

theorem sysRows_decode : ∀ r ∈ sysRows, DecodesAs r.origin r.mask r.pattern r.read := by
  simp only [sysRows, List.forall_mem_cons]
  exact ⟨decodesAs_of_word rfl, decodesAs_of_word rfl, nofun⟩

theorem uartRows_decode : ∀ r ∈ uartRows, DecodesAs r.origin r.mask r.pattern r.read := by
  simp only [uartRows, List.forall_mem_cons]
  exact ⟨uartBegin_decodesAs, decodesAs_of_word rfl, decodesAs_of_word rfl, decodesAs_of_word rfl,
    decodesAs_of_word rfl, uartWrite_decodesAs, decodesAs_of_word rfl, nofun⟩

theorem twiRows_decode : ∀ r ∈ twiRows, DecodesAs r.origin r.mask r.pattern r.read := by
  simp only [twiRows, List.forall_mem_cons]
  exact ⟨twiBegin_decodesAs, twiBeginTx_decodesAs, twiWrite_decodesAs, twiEndTx_decodesAs, twiRequest_decodesAs,
    decodesAs_of_word rfl, decodesAs_of_word rfl, decodesAs_of_word rfl, decodesAs_of_word rfl,
    decodesAs_of_word rfl, decodesAs_of_word rfl, decodesAs_of_word rfl, nofun⟩

theorem lineRows_decode : ∀ r ∈ lineRows, DecodesAs r.origin r.mask r.pattern r.read := by
  simp only [lineRows, List.forall_mem_cons]
  exact ⟨evRxByte_decodesAs, decodesAs_of_word rfl, decodesAs_of_word rfl, evCts_decodesAs, nofun⟩

theorem busRows_decode : ∀ r ∈ busRows, DecodesAs r.origin r.mask r.pattern r.read := by
  simp only [busRows, List.forall_mem_cons]
  exact ⟨decodesAs_of_word rfl, decodesAs_of_word rfl, evTwiRxbyte_decodesAs, decodesAs_of_word rfl,
    decodesAs_of_word rfl, decodesAs_of_word rfl, nofun⟩

/-- Every word of a printed row decodes to what the row reads (R94 to R98). -/
theorem opcodeRows_decode : ∀ r ∈ opcodeRows, DecodesAs r.origin r.mask r.pattern r.read := by
  simp only [opcodeRows, List.forall_mem_append]
  exact ⟨⟨⟨⟨sysRows_decode, uartRows_decode⟩, twiRows_decode⟩, lineRows_decode⟩, busRows_decode⟩

/-! ### The row of each instruction -/

/-- A slice of the operand bits of a word. -/
theorem slice_mkWord (unit op : BitVec 4) (x : BitVec 24) {a k : Nat} (le : a + k ≤ 24) :
    (mkWord unit op x).extractLsb' a k = x.extractLsb' a k :=
  BitVec.extractLsb'_append_eq_of_add_le le

/-- A mask of operand bits under the whole outer format (R90). -/
theorem mkWord_masked (unit op : BitVec 4) (x mask : BitVec 24) :
    mkWord unit op x &&& mkWord 0xF 0xF mask = mkWord unit op (x &&& mask) := by
  unfold mkWord
  rw [BitVec.and_append, BitVec.and_append]
  exact congrArg₂ (· ++ · ++ (x &&& mask)) BitVec.and_allOnes BitVec.and_allOnes

/-- Bits that are zero under the mask, and a field outside it. -/
theorem zero_append_masked {m n : Nat} (mask : BitVec m) (y : BitVec n) : (0#m ++ y) &&& (mask ++ 0#n) = 0#(m + n) := by
  rw [BitVec.and_append, BitVec.zero_and, BitVec.and_zero, BitVec.zero_append_zero]

/-- Some printed row is issued by the agent of `i`, matches its word, and reads it back. -/
def Instr.HasRow (i : Instr) : Prop :=
  ∃ r ∈ opcodeRows, r.origin = i.origin ∧ encode i &&& r.mask = r.pattern ∧ r.read (encode i) = i

/-- An instruction with an operand has row `r` if the row masks its unit, its operation and zero bits only. -/
theorem Instr.hasRow_of {unit op : BitVec 4} {x mask : BitVec 24} {r : OpcodeRow} (mem : r ∈ opcodeRows)
    (origin : r.origin = i.origin) (word : encode i = mkWord unit op x)
    (masked : r.mask = mkWord 0xF 0xF mask) (pattern : r.pattern = mkWord unit op 0)
    (zero : x &&& mask = 0) (read : r.read (mkWord unit op x) = i) : i.HasRow := by
  refine ⟨r, mem, origin, ?_, word ▸ read⟩
  rw [word, masked, pattern, mkWord_masked, zero]

/-- The low byte of a word of format `B` or `A` (R92). -/
theorem low_byte_mkWord (unit op : BitVec 4) (b : Byte) : (mkWord unit op (byteOperand b)).extractLsb' 0 8 = b :=
  (slice_mkWord unit op _ (by decide)).trans BitVec.extractLsb'_append_eq_right

/-- An instruction of format `B` or `A` has the row that reads its byte. -/
theorem Instr.hasRow_of_byte {unit op : BitVec 4} {b : Byte} {make : Byte → Instr} {r : OpcodeRow}
    (mem : r ∈ opcodeRows) (origin : r.origin = (make b).origin) (word : encode (make b) = mkWord unit op (byteOperand b))
    (masked : r.mask = mkWord 0xF 0xF (0xFFFF#16 ++ 0#8)) (pattern : r.pattern = mkWord unit op 0)
    (read : r.read = fun w => make (w.extractLsb' 0 8)) : (make b).HasRow :=
  Instr.hasRow_of mem origin word masked pattern (zero_append_masked 0xFFFF#16 b)
    (by rw [read]; exact congrArg make (low_byte_mkWord unit op b))

/-- A count that fits its field, written and read again. -/
theorem toNat_ofNat_of_lt {n k : Nat} (h : decide (k < 2 ^ n) = true) : (BitVec.ofNat n k).toNat = k :=
  by rw [BitVec.toNat_ofNat, Nat.mod_eq_of_lt (of_decide_eq_true h)]

theorem hasRow_uartBegin {frame : BitVec 4} {baud : Nat} (wf : (Instr.uartBegin frame baud).wellFormed = true) :
    (Instr.uartBegin frame baud).HasRow := by
  refine Instr.hasRow_of (r := opcodeRows[2]) (List.getElem_mem _) rfl rfl rfl rfl (BitVec.and_zero (w := 24)) ?_
  have hf : (mkWord 0x1 0x0 (frame ++ BitVec.ofNat 20 baud)).extractLsb' 20 4 = frame :=
    (slice_mkWord _ _ _ (by decide)).trans BitVec.extractLsb'_append_eq_left
  have hb : (mkWord 0x1 0x0 (frame ++ BitVec.ofNat 20 baud)).extractLsb' 0 20 = BitVec.ofNat 20 baud :=
    (slice_mkWord _ _ _ (by decide)).trans BitVec.extractLsb'_append_eq_right
  exact congrArg₂ Instr.uartBegin hf ((congrArg BitVec.toNat hb).trans (toNat_ofNat_of_lt wf))

theorem hasRow_twiBegin {own : Byte} {speed : BitVec 4} {cap : Nat}
    (wf : (Instr.twiBegin own speed cap).wellFormed = true) : (Instr.twiBegin own speed cap).HasRow := by
  refine Instr.hasRow_of (r := opcodeRows[9]) (List.getElem_mem _) rfl rfl rfl rfl (BitVec.and_zero (w := 24)) ?_
  have ho : (mkWord 0x2 0x0 (own ++ speed ++ BitVec.ofNat 12 cap)).extractLsb' 16 8 = own :=
    (slice_mkWord _ _ _ (by decide)).trans
      ((BitVec.extractLsb'_append_eq_of_le (by decide)).trans BitVec.extractLsb'_append_eq_left)
  have hs : (mkWord 0x2 0x0 (own ++ speed ++ BitVec.ofNat 12 cap)).extractLsb' 12 4 = speed :=
    (slice_mkWord _ _ _ (by decide)).trans
      ((BitVec.extractLsb'_append_eq_of_le (by decide)).trans BitVec.extractLsb'_append_eq_right)
  have hc : (mkWord 0x2 0x0 (own ++ speed ++ BitVec.ofNat 12 cap)).extractLsb' 0 12 = BitVec.ofNat 12 cap :=
    (slice_mkWord _ _ _ (by decide)).trans BitVec.extractLsb'_append_eq_right
  have hn := (congrArg BitVec.toNat hc).trans (toNat_ofNat_of_lt wf)
  exact congr (congrArg₂ Instr.twiBegin ho hs) hn

theorem hasRow_twiEndTx {count : Nat} (wf : (Instr.twiEndTx count).wellFormed = true) :
    (Instr.twiEndTx count).HasRow := by
  refine Instr.hasRow_of (r := opcodeRows[12]) (List.getElem_mem _) rfl rfl rfl rfl
    (zero_append_masked 0xFFF#12 (BitVec.ofNat 12 count)) ?_
  have hc : (mkWord 0x2 0x3 (0#12 ++ BitVec.ofNat 12 count)).extractLsb' 0 12 = BitVec.ofNat 12 count :=
    (slice_mkWord _ _ _ (by decide)).trans BitVec.extractLsb'_append_eq_right
  exact congrArg Instr.twiEndTx ((congrArg BitVec.toNat hc).trans (toNat_ofNat_of_lt wf))

/-- Format `RQ` keeps four zero bits between its two fields (R92). -/
theorem requestOperand_masked (count : BitVec 12) (addr : Byte) :
    (count ++ 0#4 ++ addr) &&& (0#12 ++ 0xF#4 ++ 0#8) = 0#24 := by
  rw [BitVec.and_append, BitVec.and_append, BitVec.and_zero, BitVec.and_zero, BitVec.zero_and]
  rfl

theorem hasRow_twiRequest {addr : Byte} {count : Nat} (wf : (Instr.twiRequest addr count).wellFormed = true) :
    (Instr.twiRequest addr count).HasRow := by
  refine Instr.hasRow_of (r := opcodeRows[13]) (List.getElem_mem _) rfl rfl rfl rfl
    (requestOperand_masked (BitVec.ofNat 12 count) addr) ?_
  have ha : (mkWord 0x2 0x4 (BitVec.ofNat 12 count ++ 0#4 ++ addr)).extractLsb' 0 8 = addr :=
    (slice_mkWord _ _ _ (by decide)).trans BitVec.extractLsb'_append_eq_right
  have hc : (mkWord 0x2 0x4 (BitVec.ofNat 12 count ++ 0#4 ++ addr)).extractLsb' 12 12 = BitVec.ofNat 12 count :=
    (slice_mkWord _ _ _ (by decide)).trans
      ((BitVec.extractLsb'_append_eq_of_le (by decide)).trans BitVec.extractLsb'_append_eq_left)
  exact congrArg₂ Instr.twiRequest ha ((congrArg BitVec.toNat hc).trans (toNat_ofNat_of_lt wf))

theorem hasRow_evCts (level : Bool) : (Instr.evCts level).HasRow := by
  cases level <;> exact ⟨opcodeRows[24], List.getElem_mem _, rfl, rfl, rfl⟩

theorem hasRow_of_wellFormed (wf : i.wellFormed = true) : i.HasRow := by
  cases i with
  | sysCli => exact ⟨opcodeRows[0], List.getElem_mem _, rfl, rfl, rfl⟩
  | sysSei => exact ⟨opcodeRows[1], List.getElem_mem _, rfl, rfl, rfl⟩
  | uartBegin frame baud => exact hasRow_uartBegin wf
  | uartEnd => exact ⟨opcodeRows[3], List.getElem_mem _, rfl, rfl, rfl⟩
  | uartAvailable => exact ⟨opcodeRows[4], List.getElem_mem _, rfl, rfl, rfl⟩
  | uartPeek => exact ⟨opcodeRows[5], List.getElem_mem _, rfl, rfl, rfl⟩
  | uartRead => exact ⟨opcodeRows[6], List.getElem_mem _, rfl, rfl, rfl⟩
  | uartWrite data => exact Instr.hasRow_of_byte (r := opcodeRows[7]) (List.getElem_mem _) rfl rfl rfl rfl rfl
  | uartFlush => exact ⟨opcodeRows[8], List.getElem_mem _, rfl, rfl, rfl⟩
  | twiBegin own speed cap => exact hasRow_twiBegin wf
  | twiBeginTx addr => exact Instr.hasRow_of_byte (r := opcodeRows[10]) (List.getElem_mem _) rfl rfl rfl rfl rfl
  | twiWrite data => exact Instr.hasRow_of_byte (r := opcodeRows[11]) (List.getElem_mem _) rfl rfl rfl rfl rfl
  | twiEndTx count => exact hasRow_twiEndTx wf
  | twiRequest addr count => exact hasRow_twiRequest wf
  | twiAvailable => exact ⟨opcodeRows[14], List.getElem_mem _, rfl, rfl, rfl⟩
  | twiRead => exact ⟨opcodeRows[15], List.getElem_mem _, rfl, rfl, rfl⟩
  | twiPeek => exact ⟨opcodeRows[16], List.getElem_mem _, rfl, rfl, rfl⟩
  | twiFlush => exact ⟨opcodeRows[17], List.getElem_mem _, rfl, rfl, rfl⟩
  | twiReady => exact ⟨opcodeRows[18], List.getElem_mem _, rfl, rfl, rfl⟩
  | twiResult => exact ⟨opcodeRows[19], List.getElem_mem _, rfl, rfl, rfl⟩
  | twiWrerr => exact ⟨opcodeRows[20], List.getElem_mem _, rfl, rfl, rfl⟩
  | evRxByte data => exact Instr.hasRow_of_byte (r := opcodeRows[21]) (List.getElem_mem _) rfl rfl rfl rfl rfl
  | evRxSpurious => exact ⟨opcodeRows[22], List.getElem_mem _, rfl, rfl, rfl⟩
  | evTxShiftDone => exact ⟨opcodeRows[23], List.getElem_mem _, rfl, rfl, rfl⟩
  | evCts level => exact hasRow_evCts level
  | evTwiAck => exact ⟨opcodeRows[25], List.getElem_mem _, rfl, rfl, rfl⟩
  | evTwiNack => exact ⟨opcodeRows[26], List.getElem_mem _, rfl, rfl, rfl⟩
  | evTwiRxbyte data => exact Instr.hasRow_of_byte (r := opcodeRows[27]) (List.getElem_mem _) rfl rfl rfl rfl rfl
  | evTwiArblost => exact ⟨opcodeRows[28], List.getElem_mem _, rfl, rfl, rfl⟩
  | evTwiBuserr => exact ⟨opcodeRows[29], List.getElem_mem _, rfl, rfl, rfl⟩
  | evTwiBusIdle => exact ⟨opcodeRows[30], List.getElem_mem _, rfl, rfl, rfl⟩

/-- Settles O1: the word of a well-formed instruction is in its row, and every word of a row decodes to what the
row reads. -/
theorem decodeInvertsEncode : Obligations.DecodeInvertsEncode := by
  intro i wf
  obtain ⟨r, mem, origin, matched, read⟩ := hasRow_of_wellFormed wf
  rw [← origin, opcodeRows_decode r mem _ matched, read]

/-! ### At most one row matches -/

/-- Every row masks the unit and the operation, and its pattern has nothing else. -/
theorem opcodeRows_outer : ∀ r ∈ opcodeRows, unitField r.mask = BitVec.allOnes 4 ∧
    opField r.mask = BitVec.allOnes 4 ∧ r.pattern = mkWord (unitField r.pattern) (opField r.pattern) 0 := by
  decide

/-- Settles O3: a decoded word is the word of its instruction, which has a row; and the unit and the operation
of a word fix the pattern of its row. -/
theorem decoderFollowsOpcodeTable : Obligations.DecoderFollowsOpcodeTable := by
  refine ⟨fun o w i => ⟨fun h => ?_, ?_⟩, fun w r mem r' mem' matched matched' => ?_⟩
  · obtain ⟨wf, rfl, rfl⟩ := encodeInvertsDecode o w i h
    exact hasRow_of_wellFormed wf
  · rintro ⟨r, mem, rfl, matched, rfl⟩
    exact opcodeRows_decode r mem w matched
  · obtain ⟨unit, op, outer⟩ := opcodeRows_outer r mem
    obtain ⟨unit', op', outer'⟩ := opcodeRows_outer r' mem'
    obtain ⟨hu, ho⟩ := fields_of_masked matched unit op
    obtain ⟨hu', ho'⟩ := fields_of_masked matched' unit' op'
    rw [outer, outer', ← hu, ← ho, hu', ho']

/-- Settles O4: nine of the words are the encodings of their instructions, and the decoder refuses the other two. -/
theorem exampleWordsDecode : Obligations.ExampleWordsDecode :=
  ⟨decodeInvertsEncode (.uartBegin 0 115200) rfl, decodeInvertsEncode (.uartBegin 0 921600) rfl,
    decodeInvertsEncode (.uartBegin 0 57600) rfl, decodeInvertsEncode (.uartWrite 0x41) rfl,
    decodeInvertsEncode (.twiBegin 0 1 32) rfl, decodeInvertsEncode (.twiBeginTx 0x50) rfl,
    decodeInvertsEncode (.twiEndTx 2) rfl, decodeInvertsEncode (.evCts true) rfl,
    decodeInvertsEncode (.evTwiRxbyte 0xAA) rfl, rfl, rfl⟩

end Sys2Proof
end

section
/-! PROOFS. What a move does to the two devices and to the host, by its cause (00_scope.md R5, 60_exceptions.md
R229): the one case split over the moves that the statements about every run are derived from. -/

namespace Sys2Proof.Machine

variable {m : Move} {s t : State}

/-! ### The causes -/

/-- The move polls the host in the wait `kind` of `cmd` (R118). -/
def Move.Polls (m : Move) (s : State) (kind : WaitKind) (cmd : Instr) : Prop :=
  m = .poll ∧ ∃ e, s.hstate = .wait kind e cmd

/-- The move runs `UART_WRITE` of `data` past its fault: it issues the command on a begun channel, or polls in
its wait (R132). -/
def Move.RunsWrite (m : Move) (s : State) (data : Byte) : Prop :=
  (m.instr = some (.uartWrite data) ∧ s.uart.begun = true) ∨ m.Polls s .uWrite (.uartWrite data)

/-- The moves that run the body of `ISR_UART_DRE`: its dispatch, and the retries of the two waits that replay it
(R120, R132, R133, R228). -/
inductive Move.Transmits (m : Move) (s : State) : Prop
  | dispatched (move : m = .dispatch .uartDre) (enabled : s.uart.dreie = true)
  | writing (data : Byte) (issue : m.instr = some (.uartWrite data)) (off : s.ie = false) (begun : s.uart.begun = true)
  | flushing (issue : m.instr = some .uartFlush) (off : s.ie = false) (sending : s.uart.transmitting = true)
  | pollWriting (data : Byte) (poll : m.Polls s .uWrite (.uartWrite data))
  | pollFlushing (poll : m.Polls s .uFlush .uartFlush)

/-! ### The effects -/

/-- Everything a move can make of the UART channel, each with its cause and its guards. -/
inductive Uart.Effect (m : Move) (s : State) : Uart → Prop
  | begins {frame : BitVec 4} {baud : Nat} {v : BitVec 16} (issue : m.instr = some (.uartBegin frame baud))
      (resolved : baudResolve s.cfg baud (doubleSpeed baud) = some v) : Effect m s (s.uart.begin s.cfg frame baud v)
  | closes (cause : m.instr = some .uartEnd ∨ m.Polls s .uEnd .uartEnd) : Effect m s s.uart.close
  | reads {b : Option Byte} {rb : RingBuffer} (issue : m.instr = some .uartRead) (unread : s.uart.rxb.empty = false)
      (take : s.uart.rxb.take .rxb s.cfg.nRx = .ok (b, rb)) :
      Effect m s { s.uart with rxb := rb, rtsAsserted := rtsAfterRead s.cfg s.uart }
  | writes {data : Byte} {rb : RingBuffer} (cause : m.RunsWrite s data) (room : s.uart.txb.full s.cfg.nTx = false)
      (store : s.uart.txb.store .txb s.cfg.nTx data = .ok rb) :
      Effect m s { s.uart with txb := rb, transmitting := true, rxcie := true, dreie := true, txc := false }
  | awaitsRoom {data : Byte} (cause : m.RunsWrite s data) : Effect m s { s.uart with dreie := true }
  | flushes : Effect m s { s.uart with transmitting := false }
  | receives {u : Uart} (move : m = .dispatch .uartRx) (enabled : s.uart.rxcie = true)
      (run : isrUartRx s.cfg s.uart = .ok u) : Effect m s u
  | transmits {u : Uart} (cause : m.Transmits s) (free : s.uart.txhold = none)
      (run : isrUartDre s.cfg s.uart = .ok u) : Effect m s u
  | callsBack (armed : s.uart.ctsIe = true) : Effect m s (isrUartCts s.uart)
  | arrives (data : Byte) : Effect m s (s.uart.rxArrive data)
  | spurious (on : s.uart.rxen = true) : Effect m s { s.uart with rxSpur := true }
  | shifts : Effect m s s.uart.shiftDone
  | ctsChanges (level : Bool) (bound : s.cfg.ctsBound = true) :
      Effect m s { s.uart with ctsIn := level, ctsEdge := true }

/-- Everything a move can make of the TWI controller, each with its guards. -/
inductive Twi.Effect (m : Move) (s : State) : Twi → Prop
  | begins {own : Byte} {speed : BitVec 4} {cap : Nat} (issue : m.instr = some (.twiBegin own speed cap))
      (free : s.twi.begun = false ∨ s.twi.busIdle = true) (valid : validSpeed speed = true) (pos : 0 < cap)
      (le : cap ≤ s.cfg.twiBufMax) : Effect m s (s.twi.begin s.cfg own speed cap)
  | composes (addr : Byte) (free : s.twi.busIdle = true) : Effect m s (s.twi.compose addr)
  | launchesRead {addr : Byte} {count : Nat} (free : s.twi.busIdle = true) (pos : 0 < count)
      (le : count ≤ s.twi.cap) : Effect m s (s.twi.launchRead addr count)
  | launchesWrite {count : Nat} (composing : s.twi.txActive = true) (le : count ≤ s.twi.cap)
      (free : s.twi.busIdle = true) : Effect m s (s.twi.launchWrite count)
  | recordsError {st : Status} (code : st = .writeNotStarted ∨ st = .sendBufferFull) :
      Effect m s { s.twi with werr := st.code }
  | writes {data : Byte} {sb : TwiBuffer} (put : s.twi.sendbuf.put .sendbuf s.twi.cap data = .ok (true, sb)) :
      Effect m s { s.twi with sendbuf := sb }
  | reads {b : Option Byte} {rb : TwiBuffer} (get : s.twi.recvbuf.get .recvbuf s.twi.cap = .ok (b, rb)) :
      Effect m s { s.twi with recvbuf := rb }
  | handles {n : Twi} (run : isrTwi s.twi = .ok n) : Effect m s n
  | acks (can : s.twi.eng.canAck = true) : Effect m s { s.twi with eng := .none, nackf := false, wif := true }
  | nacks (can : s.twi.eng.canNack = true) : Effect m s { s.twi with eng := .none, nackf := true, wif := true }
  | receives (data : Byte) (can : s.twi.eng.canReceive = true) :
      Effect m s { s.twi with eng := .none, dataIn := data, nackf := false, rif := true }
  | losesArbitration (transfer : s.twi.eng.inTransfer = true) : Effect m s { s.twi with eng := .none, arbf := true }
  | errs (transfer : s.twi.eng.inTransfer = true) : Effect m s { s.twi with eng := .none, berf := true }
  | idles (can : s.twi.canGoIdle = true) : Effect m s { s.twi with eng := .none, busIdle := true }

/-- A move writes one device at most. -/
inductive State.DeviceStep (m : Move) (s t : State) : Prop
  | neither (uart : t.uart = s.uart) (twi : t.twi = s.twi)
  | channel (effect : Uart.Effect m s t.uart) (twi : t.twi = s.twi)
  | controller (uart : t.uart = s.uart) (effect : Twi.Effect m s t.twi)

open State.DeviceStep (neither channel controller)

/-- `HSTATE` is no device. -/
theorem State.DeviceStep.setHost (h : s.DeviceStep m t) (k : HostState) : s.DeviceStep m (t.setHost k) := by
  cases h with
  | neither uart twi => exact neither uart twi
  | channel effect twi => exact channel effect twi
  | controller uart effect => exact controller uart effect

/-! ### The shared parts of waits -/

/-- The UART replay runs the handler only with the holding register empty (R120). -/
theorem replayDre_runs_free (h : replayDre s = .ok t) :
    t = s ∨ (s.uart.txhold = none ∧ ∃ u, isrUartDre s.cfg s.uart = .ok u ∧ t = s.setUart u) := by
  by_cases free : s.uart.txhold = none
  · exact (replayDre_eq_ok h).imp_right fun run => ⟨free, run⟩
  · rw [replayDre_of_held free] at h
    exact .inl (Except.ok.inj h).symm

theorem replayDre_deviceStep (cause : m.Transmits s) (h : replayDre s = .ok t) : s.DeviceStep m t := by
  rcases replayDre_runs_free h with rfl | ⟨free, u, run, rfl⟩
  · exact neither rfl rfl
  · exact channel (.transmits cause free run) rfl

theorem uartWriteRetry_deviceStep {data : Byte} {e : Bool} (cause : m.RunsWrite s data)
    (replay : e = false → m.Transmits s) (h : (uartWriteWaiting data).retry e s = .ok t) : s.DeviceStep m t := by
  rcases uartWriteRetry_eq_ok h with ⟨-, rfl⟩ | ⟨off, run⟩
  · exact channel (.awaitsRoom cause) rfl
  · exact replayDre_deviceStep (replay off) run

theorem uartFlushRetry_deviceStep {e : Bool} (replay : e = false → m.Transmits s)
    (h : uartFlushWaiting.retry e s = .ok t) : s.DeviceStep m t := by
  rcases uartFlushRetry_eq_ok h with ⟨-, rfl⟩ | ⟨off, run⟩
  · exact neither rfl rfl
  · exact replayDre_deviceStep (replay off) run

theorem twiRetry_deviceStep {e : Bool} (h : twiRetry e s = .ok t) : s.DeviceStep m t := by
  rcases twiRetry_eq_ok h with rfl | ⟨n, run, rfl⟩
  · exact neither rfl rfl
  · exact controller rfl (.handles run)

theorem uartWritePost_deviceStep {data : Byte} (cause : m.RunsWrite s data)
    (room : s.uart.txb.full s.cfg.nTx = false) (h : uartWritePost data s = .ok t) : s.DeviceStep m t := by
  obtain ⟨rb, store, rfl⟩ := uartWritePost_eq_ok h
  exact channel (.writes cause room store) rfl

theorem twiBeginTxPost_deviceStep {addr : Byte} (free : s.twi.busIdle = true)
    (h : (twiBeginTxWaiting addr).post s = .ok t) : s.DeviceStep m t := by
  rcases twiBeginTxPost_eq_ok h with ⟨-, rfl⟩ | ⟨-, rfl⟩
  · exact controller rfl (.composes addr free)
  · exact neither rfl rfl

theorem twiRequestPost_deviceStep {addr : Byte} {count : Nat} (free : s.twi.busIdle = true)
    (h : (twiRequestWaiting addr count).post s = .ok t) : s.DeviceStep m t := by
  rcases twiRequestPost_eq_ok h with ⟨st, -, rfl⟩ | ⟨-, pos, le, rfl⟩
  · exact neither rfl rfl
  · exact controller rfl (.launchesRead free pos le)

/-! ### Stimuli and handlers -/

/-- A stimulus writes its device (R102). -/
theorem exec_stimulus_deviceStep {i : Instr} (hi : i.origin ≠ .host) (h : exec i s = .next t) :
    s.DeviceStep m t := by
  cases i with
  | evRxByte data =>
    obtain rfl := execEvRxByte_next h
    exact channel (.arrives data) rfl
  | evRxSpurious =>
    obtain ⟨on, rfl⟩ := execEvRxSpurious_next h
    exact channel (.spurious on) rfl
  | evTxShiftDone =>
    obtain ⟨-, rfl⟩ := execEvTxShiftDone_next h
    exact channel .shifts rfl
  | evCts level =>
    obtain ⟨bound, -, rfl⟩ := execEvCts_next h
    exact channel (.ctsChanges level bound) rfl
  | evTwiAck =>
    obtain ⟨can, rfl⟩ := execEvTwiAck_next h
    exact controller rfl (.acks can)
  | evTwiNack =>
    obtain ⟨can, rfl⟩ := execEvTwiNack_next h
    exact controller rfl (.nacks can)
  | evTwiRxbyte data =>
    obtain ⟨can, rfl⟩ := execEvTwiRxbyte_next h
    exact controller rfl (.receives data can)
  | evTwiArblost =>
    obtain ⟨transfer, rfl⟩ := execEvTwiArblost_next h
    exact controller rfl (.losesArbitration transfer)
  | evTwiBuserr =>
    obtain ⟨transfer, rfl⟩ := execEvTwiBuserr_next h
    exact controller rfl (.errs transfer)
  | evTwiBusIdle =>
    obtain ⟨can, rfl⟩ := execEvTwiBusIdle_next h
    exact controller rfl (.idles can)
  | _ => exact absurd rfl hi

theorem dispatch_deviceStep {src : IrqSource} (h : dispatch src s = .next t) : s.DeviceStep (.dispatch src) t := by
  obtain ⟨-, pending, run⟩ := dispatch_eq_next h
  rcases runHandler_eq_ok run with ⟨u, rfl, ⟨rfl, rx⟩ | ⟨rfl, dre⟩ | ⟨rfl, rfl⟩⟩ | ⟨n, rfl, rfl, twi⟩
  · obtain ⟨enabled, -⟩ := State.pending_uartRx_iff.1 pending
    exact channel (.receives rfl enabled rx) rfl
  · obtain ⟨enabled, free⟩ := State.pending_uartDre_iff.1 pending
    exact channel (.transmits (.dispatched rfl enabled) free dre) rfl
  · obtain ⟨armed, -⟩ := Bool.and_eq_true_iff.1 pending
    exact channel (.callsBack armed) rfl
  · exact controller rfl (.handles twi)

/-! ### Commands -/

/-- The commands that may make the host wait (R118). -/
def blocking : Instr → Bool
  | .uartEnd | .uartWrite _ | .uartFlush | .twiBeginTx _ | .twiRequest _ _ | .twiAvailable => true
  | _ => false

/-- A command that does not wait leaves the host idle (R117). -/
theorem exec_immediate_deviceStep {i : Instr} (hm : m.instr = some i) (hi : i.origin = .host)
    (hb : blocking i = false) (h : exec i s = .next t) : t.hstate = .idle ∧ s.DeviceStep m t := by
  cases i with
  | sysCli =>
    obtain ⟨idle, rfl⟩ := execSysCli_next h
    exact ⟨idle, neither rfl rfl⟩
  | sysSei =>
    obtain ⟨idle, rfl⟩ := execSysSei_next h
    exact ⟨idle, neither rfl rfl⟩
  | uartBegin frame baud =>
    obtain ⟨idle, rfl | ⟨v, resolved, rfl⟩⟩ := execUartBegin_next h
    · exact ⟨idle, neither rfl rfl⟩
    · exact ⟨idle, channel (.begins hm resolved) rfl⟩
  | uartAvailable =>
    obtain ⟨idle, rfl⟩ := execUartAvailable_next h
    exact ⟨idle, neither rfl rfl⟩
  | uartPeek =>
    obtain ⟨idle, b, -, rfl⟩ := execUartPeek_next h
    exact ⟨idle, neither rfl rfl⟩
  | uartRead =>
    obtain ⟨idle, ⟨-, rfl⟩ | ⟨unread, b, rb, take, rfl⟩⟩ := execUartRead_next h
    · exact ⟨idle, neither rfl rfl⟩
    · exact ⟨idle, channel (.reads hm unread take) rfl⟩
  | twiBegin own speed cap =>
    obtain ⟨idle, rfl | ⟨st, -, rfl⟩ | ⟨free, valid, pos, le, rfl⟩⟩ := execTwiBegin_next h
    · exact ⟨idle, neither rfl rfl⟩
    · exact ⟨idle, neither rfl rfl⟩
    · exact ⟨idle, controller rfl (.begins hm free valid pos le)⟩
  | twiWrite data =>
    obtain ⟨idle, ⟨-, rfl⟩ | ⟨-, ⟨st, code, rfl⟩ | ⟨-, sb, put, rfl⟩⟩⟩ := execTwiWrite_next h
    · exact ⟨idle, neither rfl rfl⟩
    · exact ⟨idle, controller rfl (.recordsError code)⟩
    · exact ⟨idle, controller rfl (.writes put)⟩
  | twiEndTx count =>
    obtain ⟨idle, ⟨f, -, rfl⟩ | ⟨st, -, rfl⟩ | ⟨-, composing, le, free, rfl⟩⟩ := execTwiEndTx_next h
    · exact ⟨idle, neither rfl rfl⟩
    · exact ⟨idle, neither rfl rfl⟩
    · exact ⟨idle, controller rfl (.launchesWrite composing le free)⟩
  | twiRead =>
    obtain ⟨idle, ⟨-, rfl⟩ | ⟨-, b, rb, get, rfl⟩⟩ := execTwiRead_next h
    · exact ⟨idle, neither rfl rfl⟩
    · exact ⟨idle, controller rfl (.reads get)⟩
  | twiPeek =>
    obtain ⟨idle, ⟨-, rfl⟩ | ⟨-, b, -, rfl⟩⟩ := execTwiPeek_next h
    · exact ⟨idle, neither rfl rfl⟩
    · exact ⟨idle, neither rfl rfl⟩
  | twiFlush =>
    obtain ⟨idle, rfl⟩ := execTwiFlush_next h
    exact ⟨idle, neither rfl rfl⟩
  | twiReady =>
    obtain ⟨idle, rfl⟩ := execTwiReady_next h
    exact ⟨idle, neither rfl rfl⟩
  | twiResult =>
    obtain ⟨idle, rfl⟩ := execTwiResult_next h
    exact ⟨idle, neither rfl rfl⟩
  | twiWrerr =>
    obtain ⟨idle, rfl⟩ := execTwiWrerr_next h
    exact ⟨idle, neither rfl rfl⟩
  | evRxByte _ | evRxSpurious | evTxShiftDone | evCts _ => cases hi
  | evTwiAck | evTwiNack | evTwiRxbyte _ | evTwiArblost | evTwiBuserr | evTwiBusIdle => cases hi
  | _ => cases hb

/-- The issue of a command that may wait answers, or makes the host wait for it (R118). -/
theorem exec_blocking_deviceStep {i : Instr} (hm : m.instr = some i) (hb : blocking i = true)
    (h : exec i s = .next t) : s.DeviceStep m t := by
  cases i with
  | uartEnd =>
    obtain ⟨-, rfl | ⟨-, -, rfl⟩⟩ := execUartEnd_next h
    · exact channel (.closes (.inl hm)) rfl
    · exact neither rfl rfl
  | uartWrite data =>
    obtain ⟨-, ⟨-, rfl⟩ | ⟨begun, room, post⟩ | ⟨begun, -, t', retry, rfl⟩⟩ := execUartWrite_next h
    · exact neither rfl rfl
    · exact uartWritePost_deviceStep (.inl ⟨hm, begun⟩) room post
    · exact (uartWriteRetry_deviceStep (.inl ⟨hm, begun⟩) (fun off => .writing data hm off begun) retry).setHost _
  | uartFlush =>
    obtain ⟨-, rfl | ⟨sending, -, t', retry, rfl⟩⟩ := execUartFlush_next h
    · exact channel .flushes rfl
    · exact (uartFlushRetry_deviceStep (fun off => .flushing hm off sending) retry).setHost _
  | twiBeginTx addr =>
    obtain ⟨-, ⟨-, rfl⟩ | ⟨-, free, post⟩ | ⟨-, -, t', retry, rfl⟩⟩ := execTwiBeginTx_next h
    · exact neither rfl rfl
    · exact twiBeginTxPost_deviceStep free post
    · exact (twiRetry_deviceStep retry).setHost _
  | twiRequest addr count =>
    obtain ⟨-, ⟨-, rfl⟩ | ⟨-, free, post⟩ | ⟨-, -, t', retry, rfl⟩⟩ := execTwiRequest_next h
    · exact neither rfl rfl
    · exact twiRequestPost_deviceStep free post
    · exact (twiRetry_deviceStep retry).setHost _
  | twiAvailable =>
    obtain ⟨-, ⟨-, rfl⟩ | ⟨-, -, rfl⟩ | ⟨-, -, t', retry, rfl⟩⟩ := execTwiAvailable_next h
    · exact neither rfl rfl
    · exact neither rfl rfl
    · exact (twiRetry_deviceStep retry).setHost _
  | _ => cases hb

/-! ### Polls -/

/-- A poll that finds its wait over runs the post-part (R118, R121). -/
theorem waitPost_deviceStep {kind : WaitKind} {cmd : Instr} {w : Waiting} {e : Bool}
    (wait : s.hstate = .wait kind e cmd) (hw : waitingOf kind cmd = some w) (ready : w.ready e s = true)
    (h : w.post s = .ok t) : s.DeviceStep .poll t := by
  rcases waitingOf_eq_some hw with ⟨data, rfl, rfl, rfl⟩ | ⟨rfl, rfl, rfl⟩ | ⟨rfl, rfl, rfl⟩ | ⟨addr, rfl, rfl, rfl⟩ |
    ⟨addr, count, rfl, rfl, rfl⟩ | ⟨rfl, rfl, rfl⟩
  · exact uartWritePost_deviceStep (.inr ⟨rfl, e, wait⟩) (by simpa [uartWriteWaiting] using ready) h
  · obtain rfl := Except.ok.inj h
    exact channel .flushes rfl
  · obtain rfl := Except.ok.inj h
    exact channel (.closes (.inr ⟨rfl, e, wait⟩)) rfl
  · exact twiBeginTxPost_deviceStep ready h
  · exact twiRequestPost_deviceStep ready h
  · obtain rfl := Except.ok.inj h
    exact neither rfl rfl

/-- A poll that does not find its wait over retries (R119, R120). -/
theorem waitRetry_deviceStep {kind : WaitKind} {cmd : Instr} {w : Waiting} {e : Bool}
    (wait : s.hstate = .wait kind e cmd) (hw : waitingOf kind cmd = some w) (h : w.retry e s = .ok t) :
    s.DeviceStep .poll t := by
  rcases waitingOf_eq_some hw with ⟨data, rfl, rfl, rfl⟩ | ⟨rfl, rfl, rfl⟩ | ⟨-, -, rfl⟩ | ⟨addr, -, -, rfl⟩ |
    ⟨addr, count, -, -, rfl⟩ | ⟨-, -, rfl⟩
  case inl => exact uartWriteRetry_deviceStep (.inr ⟨rfl, e, wait⟩) (fun _ => .pollWriting data ⟨rfl, e, wait⟩) h
  case inr.inl => exact uartFlushRetry_deviceStep (fun _ => .pollFlushing ⟨rfl, e, wait⟩) h
  case inr.inr.inl =>
    obtain rfl := Except.ok.inj h
    exact neither rfl rfl
  all_goals exact twiRetry_deviceStep h

theorem pollHost_deviceStep (h : pollHost s = .next t) : s.DeviceStep .poll t := by
  obtain ⟨kind, e, cmd, w, wait, hw, poll⟩ := pollHost_eq_next h
  rcases Waiting.poll_eq_ok poll with ⟨ready, t', post, rfl⟩ | ⟨-, retry⟩
  · exact (waitPost_deviceStep wait hw ready post).setHost _
  · exact waitRetry_deviceStep wait hw retry

/-! ### Moves -/

/-- Everything a move can do to the devices. -/
theorem takeMove_deviceStep (h : takeMove m s = .next t) : s.DeviceStep m t := by
  rcases takeMove_eq_next h with ⟨o, w, i, rfl, ok, run⟩ | ⟨w, e, -, -, -, rfl⟩ | ⟨rfl, poll⟩ | ⟨src, rfl, disp⟩
  · have instr := Move.instr_of_decode ok
    by_cases hi : i.origin = .host
    · cases hb : blocking i with
      | true => exact exec_blocking_deviceStep instr hb run
      | false => exact (exec_immediate_deviceStep instr hi hb run).2
    · exact exec_stimulus_deviceStep hi run
  · exact neither rfl rfl
  · exact pollHost_deviceStep poll
  · exact dispatch_deviceStep disp

theorem takeMove_uart (h : takeMove m s = .next t) : t.uart = s.uart ∨ Uart.Effect m s t.uart := by
  cases takeMove_deviceStep h with
  | neither uart _ => exact .inl uart
  | channel effect _ => exact .inr effect
  | controller uart _ => exact .inl uart

theorem takeMove_twi (h : takeMove m s = .next t) : t.twi = s.twi ∨ Twi.Effect m s t.twi := by
  cases takeMove_deviceStep h with
  | neither _ twi => exact .inl twi
  | channel _ twi => exact .inl twi
  | controller _ effect => exact .inr effect

theorem takeMove_cfg (h : takeMove m s = .next t) : t.cfg = s.cfg := (takeMove_keepsOrRaises h).cfg

/-! ### The cells each handler writes -/

section
variable {p : Params} {u v : Uart} {w n : Twi}

/-- `ISR_UART_DRE` writes the tail of the TX ring, the transmit registers, its enable and the CTS edge interrupt
(R157). -/
theorem isrUartDre_writes (h : isrUartDre p u = .ok v) : ∃ tail shift hold dreie edge armed, v = { u with
    txb := { u.txb with tail := tail }, txshift := shift, txhold := hold, dreie := dreie, ctsEdge := edge
    ctsIe := armed } := by
  rcases isrUartDre_eq_ok h with ⟨-, rfl | ⟨-, -, rfl⟩⟩ | ⟨-, -, -, rfl⟩
  · exact ⟨_, _, _, _, _, _, rfl⟩
  · exact ⟨_, _, _, _, _, _, rfl⟩
  · rcases hwTxWrite_cases { u with txb := { u.txb with tail := (u.txb.tail + 1) % p.nTx } }
      (u.txb.storage.byteAt .txb 0 u.txb.tail) with ⟨-, written⟩ | ⟨-, -, written⟩ | ⟨-, -, written⟩ <;>
      exact ⟨_, _, _, _, _, _, written⟩

/-- `ISR_UART_CTS` writes the edge interrupt and the transmit enable (R158). -/
theorem isrUartCts_writes (u : Uart) :
    ∃ dreie armed, isrUartCts u = { u with dreie := dreie, ctsEdge := false, ctsIe := armed } := by
  rcases isrUartCts_cases u with ⟨-, called⟩ | ⟨-, -, called⟩ | ⟨-, -, called⟩ <;> exact ⟨_, _, called⟩

/-- An arriving byte writes the input log and the receive register (R150). -/
theorem Uart.rxArrive_writes (u : Uart) (b : Byte) :
    ∃ udrRx dr, u.rxArrive b = { u with uartIn := u.uartIn ++ [b], udrRx := udrRx, dr := dr } := by
  by_cases lost : u.rxen = false ∨ u.dr = true
  · exact ⟨_, _, Uart.rxArrive_of_lost lost b⟩
  · rw [not_or, Bool.not_eq_false, Bool.not_eq_true] at lost
    exact ⟨_, _, Uart.rxArrive_of_kept lost.1 lost.2 b⟩

/-- `ISR_TWI` writes neither what `TWI_BEGIN` sets up nor what the host composes (R202 to R206). -/
theorem isrTwi_writes (h : isrTwi w = .ok n) : ∃ sb rb srs out eng idle wif rif arbf berf result state, n = { w with
    sendbuf := sb, recvbuf := rb, srs := srs, twiOut := out, eng := eng, busIdle := idle, wif := wif, rif := rif
    arbf := arbf, berf := berf, tresult := result, tstate := state } := by
  rcases isrTwi_eq_ok h with ⟨-, rfl⟩ | ⟨-, -, rfl⟩ | ⟨-, -, -, write⟩ | ⟨-, -, -, -, read⟩ | ⟨-, rfl⟩
  · exact ⟨_, _, _, _, _, _, _, _, _, _, _, _, rfl⟩
  · exact ⟨_, _, _, _, _, _, _, _, _, _, _, _, rfl⟩
  · rcases twiWriteBranch_eq_ok write with ⟨-, rfl⟩ | ⟨-, -, -, rfl⟩ | ⟨-, -, -, rfl⟩ | ⟨-, -, -, rfl⟩ <;>
      exact ⟨_, _, _, _, _, _, _, _, _, _, _, _, rfl⟩
  · obtain ⟨k, keep, rfl⟩ := twiReadBranch_eq_ok read
    unfold twiReadNext
    rcases twiKeepByte_eq_ok keep with ⟨-, rfl⟩ | ⟨-, r, -, rfl⟩ <;> split <;>
      exact ⟨_, _, _, _, _, _, _, _, _, _, _, _, rfl⟩
  · exact ⟨_, _, _, _, _, _, _, _, _, _, _, _, rfl⟩

end

/-! ### The configuration fields -/

theorem Uart.Effect.config {u : Uart} (h : Uart.Effect m s u) :
    (∃ frame baud, m.instr = some (.uartBegin frame baud)) ∨
      (u.frame = s.uart.frame ∧ u.timing = s.uart.timing ∧ u.u2x = s.uart.u2x) := by
  cases h with
  | begins issue _ => exact .inl ⟨_, _, issue⟩
  | receives _ _ run =>
    obtain ⟨rb, rfl, -⟩ := isrUartRx_eq_ok run
    exact .inr ⟨rfl, rfl, rfl⟩
  | transmits _ _ run =>
    obtain ⟨_, _, _, _, _, _, rfl⟩ := isrUartDre_writes run
    exact .inr ⟨rfl, rfl, rfl⟩
  | callsBack _ =>
    obtain ⟨_, _, called⟩ := isrUartCts_writes s.uart
    exact .inr (called ▸ ⟨rfl, rfl, rfl⟩)
  | arrives data =>
    obtain ⟨_, _, arrived⟩ := s.uart.rxArrive_writes data
    exact .inr (arrived ▸ ⟨rfl, rfl, rfl⟩)
  | _ => exact .inr ⟨rfl, rfl, rfl⟩

theorem Twi.Effect.config {n : Twi} (h : Twi.Effect m s n) :
    (∃ own speed cap, m.instr = some (.twiBegin own speed cap)) ∨
      (n.ownAddr = s.twi.ownAddr ∧ n.speed = s.twi.speed ∧ n.div = s.twi.div) := by
  cases h with
  | begins issue _ _ _ _ => exact .inl ⟨_, _, _, issue⟩
  | handles run =>
    obtain ⟨_, _, _, _, _, _, _, _, _, _, _, _, rfl⟩ := isrTwi_writes run
    exact .inr ⟨rfl, rfl, rfl⟩
  | _ => exact .inr ⟨rfl, rfl, rfl⟩

/-- Settles O13: of the effects on a device, only its begin writes its configuration. -/
theorem onlyBeginWritesConfiguration : Obligations.OnlyBeginWritesConfiguration := by
  intro m s t h
  constructor
  · rcases takeMove_uart h with same | effect
    · exact .inr (by rw [same]; exact ⟨rfl, rfl, rfl⟩)
    · exact effect.config
  · rcases takeMove_twi h with same | effect
    · exact .inr (by rw [same]; exact ⟨rfl, rfl, rfl⟩)
    · exact effect.config

end Sys2Proof.Machine
end

section
/-! PROOFS. Who writes the rings and RTS (10_state.md R59, 41_uart.md R134): read off the effects of a move. -/

namespace Sys2Proof.Machine

variable {m : Move} {s : State} {u : Uart}

/-! ### The rings -/

/-- `Store` leaves the tail of a ring (R69). -/
theorem RingBuffer.store_tail {id : MemId} {n : Nat} {rb rb' : RingBuffer} {b : Byte}
    (h : rb.store id n b = .ok rb') : rb'.tail = rb.tail := by
  rcases RingBuffer.store_eq_ok h with ⟨-, rfl⟩ | ⟨-, -, rfl⟩ <;> rfl

/-- `Take` writes nothing but the tail of a ring (R70). -/
theorem RingBuffer.take_writes_tail {id : MemId} {n : Nat} {rb rb' : RingBuffer} {b : Option Byte}
    (h : rb.take id n = .ok (b, rb')) : ∃ tail, rb' = { rb with tail := tail } := by
  rcases RingBuffer.take_eq_ok h with ⟨-, taken⟩ | ⟨-, -, taken⟩ <;> exact ⟨_, (Prod.mk.inj taken).2⟩

theorem Move.Polls.of_kind {kind : WaitKind} {cmd : Instr} (h : m.Polls s kind cmd) :
    m = .poll ∧ ∃ e cmd, s.hstate = .wait kind e cmd :=
  h.imp_right fun ⟨e, wait⟩ => ⟨e, cmd, wait⟩

/-- The moves that run `ISR_UART_DRE`, as R59 lists the writers of the tail of `TXB`. -/
theorem Move.Transmits.writer (h : m.Transmits s) :
    m = .dispatch .uartDre ∨
      (s.ie = false ∧ ((∃ data, m.instr = some (.uartWrite data)) ∨ m.instr = some .uartFlush)) ∨
      (m = .poll ∧ ∃ e cmd, s.hstate = .wait .uWrite e cmd) ∨
      (m = .poll ∧ ∃ e cmd, s.hstate = .wait .uFlush e cmd) := by
  cases h with
  | dispatched move _ => exact .inl move
  | writing data issue off _ => exact .inr (.inl ⟨off, .inl ⟨data, issue⟩⟩)
  | flushing issue off _ => exact .inr (.inl ⟨off, .inr issue⟩)
  | pollWriting data poll => exact .inr (.inr (.inl poll.of_kind))
  | pollFlushing poll => exact .inr (.inr (.inr poll.of_kind))

/-- The RX ring is written by the receive handler, `UART_READ`, `UART_END` and `UART_BEGIN` (R59). -/
theorem Uart.Effect.rxb (h : Uart.Effect m s u) :
    (u.rxb.storage = s.uart.rxb.storage ∨ m = .dispatch .uartRx) ∧
    (u.rxb.head = s.uart.rxb.head ∨ m = .dispatch .uartRx ∨ ∃ frame baud, m.instr = some (.uartBegin frame baud)) ∧
    (u.rxb.tail = s.uart.rxb.tail ∨ m.instr = some .uartRead ∨ m.instr = some .uartEnd ∨
      (m = .poll ∧ ∃ e cmd, s.hstate = .wait .uEnd e cmd) ∨ ∃ frame baud, m.instr = some (.uartBegin frame baud)) := by
  cases h with
  | begins issue _ =>
    exact ⟨.inl rfl, .inr (.inr ⟨_, _, issue⟩), .inr (.inr (.inr (.inr ⟨_, _, issue⟩)))⟩
  | closes cause =>
    exact ⟨.inl rfl, .inl rfl, .inr (.inr (cause.imp_right fun poll => .inl poll.of_kind))⟩
  | reads issue _ take =>
    obtain ⟨tail, rfl⟩ := RingBuffer.take_writes_tail take
    exact ⟨.inl rfl, .inl rfl, .inr (.inl issue)⟩
  | receives move _ run =>
    obtain ⟨rb, rfl, ⟨-, rfl⟩ | ⟨-, store⟩⟩ := isrUartRx_eq_ok run
    · exact ⟨.inl rfl, .inl rfl, .inl rfl⟩
    · exact ⟨.inr move, .inr (.inl move), .inl (RingBuffer.store_tail store)⟩
  | transmits _ _ run =>
    obtain ⟨_, _, _, _, _, _, rfl⟩ := isrUartDre_writes run
    exact ⟨.inl rfl, .inl rfl, .inl rfl⟩
  | callsBack _ =>
    obtain ⟨_, _, called⟩ := isrUartCts_writes s.uart
    exact called ▸ ⟨.inl rfl, .inl rfl, .inl rfl⟩
  | arrives data =>
    obtain ⟨_, _, arrived⟩ := s.uart.rxArrive_writes data
    exact arrived ▸ ⟨.inl rfl, .inl rfl, .inl rfl⟩
  | _ => exact ⟨.inl rfl, .inl rfl, .inl rfl⟩

/-- The TX ring is written by `UART_WRITE`, the transmit handler, `UART_END` and `UART_BEGIN` (R59). -/
theorem Uart.Effect.txb (h : Uart.Effect m s u) :
    (u.txb.storage = s.uart.txb.storage ∧ u.txb.head = s.uart.txb.head ∨
      (∃ data, m.instr = some (.uartWrite data)) ∨ (m = .poll ∧ ∃ e cmd, s.hstate = .wait .uWrite e cmd) ∨
        (∃ frame baud, m.instr = some (.uartBegin frame baud)) ∧ u.txb.storage = s.uart.txb.storage) ∧
    (u.txb.tail = s.uart.txb.tail ∨ m.Transmits s ∨ m.instr = some .uartEnd ∨
      (m = .poll ∧ ∃ e cmd, s.hstate = .wait .uEnd e cmd) ∨ ∃ frame baud, m.instr = some (.uartBegin frame baud)) := by
  cases h with
  | begins issue _ =>
    exact ⟨.inr (.inr (.inr ⟨⟨_, _, issue⟩, rfl⟩)), .inr (.inr (.inr (.inr ⟨_, _, issue⟩)))⟩
  | closes cause => exact ⟨.inl ⟨rfl, rfl⟩, .inr (.inr (cause.imp_right fun poll => .inl poll.of_kind))⟩
  | writes cause _ store =>
    have tail := RingBuffer.store_tail store
    rcases cause with ⟨issue, -⟩ | poll
    · exact ⟨.inr (.inl ⟨_, issue⟩), .inl tail⟩
    · exact ⟨.inr (.inr (.inl poll.of_kind)), .inl tail⟩
  | receives _ _ run =>
    obtain ⟨rb, rfl, -⟩ := isrUartRx_eq_ok run
    exact ⟨.inl ⟨rfl, rfl⟩, .inl rfl⟩
  | transmits cause _ run =>
    obtain ⟨_, _, _, _, _, _, rfl⟩ := isrUartDre_writes run
    exact ⟨.inl ⟨rfl, rfl⟩, .inr (.inl cause)⟩
  | callsBack _ =>
    obtain ⟨_, _, called⟩ := isrUartCts_writes s.uart
    exact called ▸ ⟨.inl ⟨rfl, rfl⟩, .inl rfl⟩
  | arrives data =>
    obtain ⟨_, _, arrived⟩ := s.uart.rxArrive_writes data
    exact arrived ▸ ⟨.inl ⟨rfl, rfl⟩, .inl rfl⟩
  | _ => exact ⟨.inl ⟨rfl, rfl⟩, .inl rfl⟩

/-- Settles O56: each effect on the channel names its cause, and those that write a ring are the listed ones. -/
theorem ringWriterDiscipline : Obligations.RingWriterDiscipline := by
  intro m s t h begins polls
  rcases takeMove_uart h with same | effect
  · rw [same]
    exact ⟨.inl rfl, .inl rfl, .inl rfl, .inl ⟨rfl, rfl⟩, .inl rfl⟩
  · obtain ⟨rxStorage, rxHead, rxTail⟩ := effect.rxb
    obtain ⟨txStore, txTail⟩ := effect.txb
    refine ⟨rxStorage, rxHead, rxTail, txStore, ?_⟩
    rcases txTail with same | transmits | closes | closes | begins
    · exact .inl same
    · rcases transmits.writer with move | issue | poll | poll
      · exact .inr (.inl move)
      · exact .inr (.inr (.inl issue))
      · exact .inr (.inr (.inr (.inl poll)))
      · exact .inr (.inr (.inr (.inr (.inl poll))))
    · exact .inr (.inr (.inr (.inr (.inr (.inl closes)))))
    · exact .inr (.inr (.inr (.inr (.inr (.inr (.inl closes))))))
    · exact .inr (.inr (.inr (.inr (.inr (.inr (.inr begins))))))

/-! ### RTS -/

/-- What `UART_READ` does to RTS (R131). -/
theorem rtsAfterRead_cases (p : Params) (u : Uart) :
    rtsAfterRead p u = u.rtsAsserted ∨
      (p.rtsBound = true ∧ u.rxb.nearFull p.nRx rtsMargin = false ∧ rtsAfterRead p u = false) := by
  unfold rtsAfterRead
  split
  · next c =>
    rw [Bool.and_eq_true, Bool.not_eq_true'] at c
    exact .inr ⟨c.1, c.2, rfl⟩
  · exact .inl rfl

/-- RTS stays, or is asserted by the receive handler, or is released by `UART_READ` or `UART_BEGIN` (R134). -/
theorem Uart.Effect.rts (h : Uart.Effect m s u) :
    u.rtsAsserted = s.uart.rtsAsserted ∨
      (u.rtsAsserted = true ∧ m = .dispatch .uartRx ∧ s.cfg.rtsBound = true ∧
        s.uart.rxb.nearFull s.cfg.nRx rtsMargin = true) ∨
      (u.rtsAsserted = false ∧ s.cfg.rtsBound = true ∧
        (m.instr = some .uartRead ∧ s.uart.rxb.nearFull s.cfg.nRx rtsMargin = false ∨
          ∃ frame baud, m.instr = some (.uartBegin frame baud))) := by
  cases h with
  | begins issue _ =>
    rw [Uart.begin_rtsAsserted]
    split
    · next bound => exact .inr (.inr ⟨rfl, bound, .inr ⟨_, _, issue⟩⟩)
    · exact .inl rfl
  | reads issue _ _ =>
    rcases rtsAfterRead_cases s.cfg s.uart with same | ⟨bound, far, released⟩
    · exact .inl same
    · exact .inr (.inr ⟨released, bound, .inl ⟨issue, far⟩⟩)
  | receives move _ run =>
    obtain ⟨rb, rfl, -⟩ := isrUartRx_eq_ok run
    dsimp only
    split
    · next c => exact .inr (.inl ⟨rfl, move, Bool.and_eq_true_iff.1 c⟩)
    · exact .inl rfl
  | transmits _ _ run =>
    obtain ⟨_, _, _, _, _, _, rfl⟩ := isrUartDre_writes run
    exact .inl rfl
  | callsBack _ =>
    obtain ⟨_, _, called⟩ := isrUartCts_writes s.uart
    exact .inl (called ▸ rfl)
  | arrives data =>
    obtain ⟨_, _, arrived⟩ := s.uart.rxArrive_writes data
    exact .inl (arrived ▸ rfl)
  | _ => exact .inl rfl

/-- Settles O57: an effect that changes RTS is one of the three that R134 names. -/
theorem rtsChangesOnlyWhereStated : Obligations.RtsChangesOnlyWhereStated := by
  intro m s t h
  have rts := (takeMove_uart h).elim (fun same => .inl (congrArg Uart.rtsAsserted same)) Uart.Effect.rts
  rcases rts with same | ⟨asserted, cause⟩ | ⟨released, bound, cause⟩
  · exact ⟨fun off on => by simp [same, off] at on, fun on off => by simp [same, on] at off⟩
  · exact ⟨fun _ _ => cause, fun _ off => by simp [asserted] at off⟩
  · exact ⟨fun _ on => by simp [released] at on, fun _ _ => ⟨bound, cause⟩⟩

end Sys2Proof.Machine
end

section
/-! PROOFS. What a move does to the host's wait (40_sys.md R117, R118, R121): the host ends idle, stays where it was,
or begins the wait of the command it issues. -/

namespace Sys2Proof.Machine

variable {m : Move} {s t : State}

/-! ### The begun bits -/

theorem Uart.Effect.begun {u : Uart} (h : Uart.Effect m s u) :
    u.begun = s.uart.begun ∨ (∃ frame baud, m.instr = some (.uartBegin frame baud)) ∨
      m.instr = some .uartEnd ∨ m.Polls s .uEnd .uartEnd := by
  cases h with
  | begins issue _ => exact .inr (.inl ⟨_, _, issue⟩)
  | closes cause => exact .inr (.inr cause)
  | receives _ _ run => exact .inl (isrUartRx_keepsLine run).begun
  | transmits _ _ run => exact .inl (isrUartDre_keepsLine run).begun
  | callsBack _ => exact .inl (isrUartCts_keepsLine s.uart).begun
  | arrives data =>
    obtain ⟨_, _, arrived⟩ := s.uart.rxArrive_writes data
    exact .inl (arrived ▸ rfl)
  | _ => exact .inl rfl

/-- A controller once begun stays begun (R40). -/
theorem Twi.Effect.begun_mono {n : Twi} (h : Twi.Effect m s n) (begun : s.twi.begun = true) : n.begun = true := by
  cases h with
  | begins _ _ _ _ _ => rfl
  | handles run => exact (isrTwi_keepsSetup run).begun.trans begun
  | _ => exact begun

theorem takeMove_twi_begun (h : takeMove m s = .next t) (begun : s.twi.begun = true) : t.twi.begun = true := by
  rcases takeMove_twi h with same | effect
  · rw [same, begun]
  · exact effect.begun_mono begun

/-! ### A waiting host -/

/-- While the host waits, only a stimulus issues an instruction (R117, R124). -/
theorem origin_of_waiting {i : Instr} (wait : s.hstate ≠ .idle) (hm : m.instr = some i)
    (h : takeMove m s = .next t) : i.origin ≠ .host := by
  intro host
  obtain ⟨body, run⟩ := exec_of_host host
  rw [takeMove_of_instr hm, run, hostCommand_eq_next] at h
  exact wait h.1

/-- The channel that a host waits on stays begun, unless the wait is that of `UART_END` (R128). -/
theorem takeMove_uart_begun_of_waiting {kind : WaitKind} {e : Bool} {cmd : Instr} (wait : s.hstate = .wait kind e cmd)
    (hk : kind ≠ .uEnd) (h : takeMove m s = .next t) : t.uart.begun = s.uart.begun := by
  have busy : s.hstate ≠ .idle := by rw [wait]; nofun
  rcases takeMove_uart h with same | effect
  · rw [same]
  · rcases effect.begun with same | ⟨frame, baud, issue⟩ | issue | ⟨-, e', wait'⟩
    · exact same
    · exact absurd rfl (origin_of_waiting busy issue h)
    · exact absurd rfl (origin_of_waiting busy issue h)
    · cases wait.symm.trans wait'
      exact absurd rfl hk

/-! ### Where the host goes -/

/-- The command may begin the wait `kind`: the guards of its issue that the invariant speaks of (R24, R118). -/
inductive State.MayWait (s : State) : WaitKind → Instr → Prop
  | writing (data : Byte) (begun : s.uart.begun = true) : MayWait s .uWrite (.uartWrite data)
  | flushing (sending : s.uart.transmitting = true) : MayWait s .uFlush .uartFlush
  | ending (on : s.ie = true) : MayWait s .uEnd .uartEnd
  | composing (addr : Byte) (begun : s.twi.begun = true) : MayWait s .tBeginTx (.twiBeginTx addr)
  | requesting (addr : Byte) (count : Nat) (begun : s.twi.begun = true) : MayWait s .tRequest (.twiRequest addr count)
  | counting (begun : s.twi.begun = true) : MayWait s .tAvailable .twiAvailable

/-- A blocking command leaves the host idle, or in its wait with the present `IE` (R118). -/
theorem exec_blocking_hstate {i : Instr} (hb : blocking i = true) (h : exec i s = .next t) :
    t.hstate = .idle ∨ ∃ kind, s.MayWait kind i ∧ t.hstate = .wait kind s.ie i := by
  cases i with
  | uartEnd =>
    obtain ⟨idle, rfl | ⟨on, -, rfl⟩⟩ := execUartEnd_next h
    · exact .inl idle
    · exact .inr ⟨_, .ending on, rfl⟩
  | uartWrite data =>
    obtain ⟨idle, ⟨-, rfl⟩ | ⟨-, -, post⟩ | ⟨begun, -, t', -, rfl⟩⟩ := execUartWrite_next h
    · exact .inl idle
    · obtain ⟨rb, -, rfl⟩ := uartWritePost_eq_ok post
      exact .inl idle
    · exact .inr ⟨_, .writing data begun, rfl⟩
  | uartFlush =>
    obtain ⟨idle, rfl | ⟨sending, -, t', -, rfl⟩⟩ := execUartFlush_next h
    · exact .inl idle
    · exact .inr ⟨_, .flushing sending, rfl⟩
  | twiBeginTx addr =>
    obtain ⟨idle, ⟨-, rfl⟩ | ⟨-, -, post⟩ | ⟨begun, -, t', -, rfl⟩⟩ := execTwiBeginTx_next h
    · exact .inl idle
    · rcases twiBeginTxPost_eq_ok post with ⟨-, rfl⟩ | ⟨-, rfl⟩ <;> exact .inl idle
    · exact .inr ⟨_, .composing addr begun, rfl⟩
  | twiRequest addr count =>
    obtain ⟨idle, ⟨-, rfl⟩ | ⟨-, -, post⟩ | ⟨begun, -, t', -, rfl⟩⟩ := execTwiRequest_next h
    · exact .inl idle
    · rcases twiRequestPost_eq_ok post with ⟨st, -, rfl⟩ | ⟨-, -, -, rfl⟩ <;> exact .inl idle
    · exact .inr ⟨_, .requesting addr count begun, rfl⟩
  | twiAvailable =>
    obtain ⟨idle, ⟨-, rfl⟩ | ⟨-, -, rfl⟩ | ⟨begun, -, t', -, rfl⟩⟩ := execTwiAvailable_next h
    · exact .inl idle
    · exact .inl idle
    · exact .inr ⟨_, .counting begun, rfl⟩
  | _ => cases hb

/-- A retry writes one device at most, and nothing else (R119, R120). -/
theorem waitRetry_writes_device {kind : WaitKind} {cmd : Instr} {w : Waiting} {e : Bool}
    (hw : waitingOf kind cmd = some w) (h : w.retry e s = .ok t) :
    t = s ∨ (∃ u, t = s.setUart u) ∨ ∃ n, t = s.setTwi n := by
  have replayed {t : State} (h : replayDre s = .ok t) : t = s ∨ (∃ u, t = s.setUart u) ∨ ∃ n, t = s.setTwi n :=
    (replayDre_eq_ok h).imp_right fun ⟨u, _, run⟩ => .inl ⟨u, run⟩
  rcases waitingOf_eq_some hw with ⟨data, -, -, rfl⟩ | ⟨-, -, rfl⟩ | ⟨-, -, rfl⟩ | ⟨addr, -, -, rfl⟩ |
    ⟨addr, count, -, -, rfl⟩ | ⟨-, -, rfl⟩
  case inl =>
    rcases uartWriteRetry_eq_ok h with ⟨-, rfl⟩ | ⟨-, replay⟩
    · exact .inr (.inl ⟨_, rfl⟩)
    · exact replayed replay
  case inr.inl =>
    rcases uartFlushRetry_eq_ok h with ⟨-, rfl⟩ | ⟨-, replay⟩
    · exact .inl rfl
    · exact replayed replay
  case inr.inr.inl => exact .inl (Except.ok.inj h).symm
  all_goals exact (twiRetry_eq_ok h).imp_right fun ⟨n, _, run⟩ => .inr ⟨n, run⟩

/-- Where a move leaves the host. -/
inductive State.HostStep (m : Move) (s t : State) : Prop
  | ends (idle : t.hstate = .idle)
  | stays (hstate : t.hstate = s.hstate) (ie : t.ie = s.ie)
  | waits {kind : WaitKind} {cmd : Instr} (idle : s.hstate = .idle) (issue : m.instr = some cmd)
      (may : s.MayWait kind cmd) (hstate : t.hstate = .wait kind s.ie cmd) (ie : t.ie = s.ie)

open State.HostStep (ends stays waits)

theorem exec_hostStep {i : Instr} (hm : m.instr = some i) (h : exec i s = .next t) : s.HostStep m t := by
  by_cases hi : i.origin = .host
  · obtain ⟨body, run⟩ := exec_of_host hi
    have idle : s.hstate = .idle := (hostCommand_eq_next.1 ((run s).symm.trans h)).1
    cases hb : blocking i with
    | false => exact ends (exec_immediate_deviceStep hm hi hb h).1
    | true =>
      have cli : i ≠ .sysCli := by rintro rfl; cases hb
      have sei : i ≠ .sysSei := by rintro rfl; cases hb
      rcases exec_blocking_hstate hb h with ended | ⟨kind, may, wait⟩
      · exact ends ended
      · exact waits idle hm may wait (exec_ie cli sei h)
  · rcases exec_stimulus_writes_device hi h with ⟨u, rfl⟩ | ⟨n, rfl⟩ <;> exact stays rfl rfl

theorem pollHost_hostStep (h : pollHost s = .next t) : s.HostStep m t := by
  obtain ⟨kind, e, cmd, w, -, hw, poll⟩ := pollHost_eq_next h
  rcases Waiting.poll_eq_ok poll with ⟨-, t', -, rfl⟩ | ⟨-, retry⟩
  · exact ends rfl
  · rcases waitRetry_writes_device hw retry with rfl | ⟨u, rfl⟩ | ⟨n, rfl⟩ <;> exact stays rfl rfl

theorem dispatch_hostStep {src : IrqSource} (h : dispatch src s = .next t) : s.HostStep m t := by
  obtain ⟨-, -, run⟩ := dispatch_eq_next h
  rcases runHandler_eq_ok run with ⟨u, rfl, -⟩ | ⟨n, rfl, -⟩ <;> exact stays rfl rfl

/-- Everything a move can do to the host. -/
theorem takeMove_hostStep (h : takeMove m s = .next t) : s.HostStep m t := by
  rcases takeMove_eq_next h with ⟨o, w, i, rfl, ok, run⟩ | ⟨w, e, -, -, idle, rfl⟩ | ⟨-, poll⟩ | ⟨src, -, disp⟩
  · exact exec_hostStep (Move.instr_of_decode ok) run
  · exact ends idle
  · exact pollHost_hostStep poll
  · exact dispatch_hostStep disp

end Sys2Proof.Machine
end

section
/-! PROOFS. Every move keeps what holds of the UART channel and of the host's wait (10_state.md R64). -/

namespace Sys2Proof.Machine

variable {m : Move} {s t : State} {p : Params} {u v : Uart}

/-! ### What the host's wait says -/

theorem State.hostInv_of_idle (idle : s.hstate = .idle) : s.HostInv := by
  unfold State.HostInv
  rw [idle]
  trivial

/-- A waiting host waits for its own command, with the present `IE` (R24, R118). -/
theorem State.HostInv.of_wait {kind : WaitKind} {e : Bool} {cmd : Instr} (h : s.HostInv)
    (wait : s.hstate = .wait kind e cmd) : (waitingOf kind cmd).isSome = true ∧ e = s.ie := by
  unfold State.HostInv at h
  rw [wait] at h
  exact ⟨h.1, h.2.1⟩

theorem State.HostInv.begun_of_uart {kind : WaitKind} {e : Bool} {cmd : Instr} (h : s.HostInv)
    (wait : s.hstate = .wait kind e cmd) (hk : kind = .uWrite ∨ kind = .uFlush) : s.uart.begun = true := by
  unfold State.HostInv at h
  rw [wait] at h
  rcases hk with rfl | rfl <;> exact h.2.2

theorem State.HostInv.ie_of_uEnd {e : Bool} {cmd : Instr} (h : s.HostInv) (wait : s.hstate = .wait .uEnd e cmd) :
    e = true := by
  unfold State.HostInv at h
  rw [wait] at h
  exact h.2.2

theorem State.HostInv.begun_of_twi {kind : WaitKind} {e : Bool} {cmd : Instr} (h : s.HostInv)
    (wait : s.hstate = .wait kind e cmd) (hk : kind = .tBeginTx ∨ kind = .tRequest ∨ kind = .tAvailable) :
    s.twi.begun = true := by
  unfold State.HostInv at h
  rw [wait] at h
  rcases hk with rfl | rfl | rfl <;> exact h.2.2

/-! ### A begun channel -/

theorem Move.RunsWrite.begun {data : Byte} (h : m.RunsWrite s data) (inv : s.HostInv) : s.uart.begun = true := by
  rcases h with ⟨-, begun⟩ | ⟨-, e, wait⟩
  · exact begun
  · exact inv.begun_of_uart wait (.inl rfl)

/-- A channel that is not begun has its transmit side at rest, so one that has not is begun (R128). -/
theorem Uart.Inv.begun_of_active (h : u.Inv p) (active : u.dreie = true ∨ u.ctsIe = true ∨ u.transmitting = true) :
    u.begun = true := by
  by_contra closed
  obtain ⟨dreie, ctsIe, transmitting⟩ := h.closed (Bool.not_eq_true _ ▸ closed)
  simp [dreie, ctsIe, transmitting] at active

theorem Move.Transmits.begun (h : m.Transmits s) (inv : s.Inv) : s.uart.begun = true := by
  cases h with
  | dispatched _ enabled => exact inv.uart.begun_of_active (.inl enabled)
  | writing _ _ _ begun => exact begun
  | flushing _ _ sending => exact inv.uart.begun_of_active (.inr (.inr sending))
  | pollWriting _ poll =>
    obtain ⟨-, e, wait⟩ := poll
    exact inv.host.begun_of_uart wait (.inl rfl)
  | pollFlushing poll =>
    obtain ⟨-, e, wait⟩ := poll
    exact inv.host.begun_of_uart wait (.inr rfl)

/-- What follows from a bit that is on being off. -/
theorem elim_of_true {P : Prop} {b : Bool} (on : b = true) (off : b = false) : P :=
  Bool.noConfusion (on.symm.trans off)

/-- What follows from a bit that is off being on. -/
theorem elim_of_false {P : Prop} {b : Bool} (off : b = false) (on : b = true) : P := elim_of_true on off

/-! ### The effects on the channel -/

theorem RingBuffer.Wf.set_tail {id : MemId} {n tail : Nat} {rb : RingBuffer} (w : rb.Wf id n) (lt : tail < n) :
    RingBuffer.Wf id n { rb with tail := tail } :=
  RingBuffer.wf_of w.head_lt lt w.storage_wf

theorem RingBuffer.Wf.reset {id : MemId} {n : Nat} {rb : RingBuffer} (w : rb.Wf id n) :
    RingBuffer.Wf id n { rb with head := 0, tail := 0 } :=
  RingBuffer.wf_of (Nat.zero_lt_of_lt w.head_lt) (Nat.zero_lt_of_lt w.head_lt) w.storage_wf

theorem baudResolve_eq_some {baud : Nat} {u2x : Bool} {timing : BitVec 16}
    (h : baudResolve p baud u2x = some timing) : ∃ i, timing = baudTable p u2x i := by
  obtain ⟨i, -, entry⟩ := Option.map_eq_some_iff.1 h
  exact ⟨i, entry.symm⟩

/-- `UART_BEGIN` drives a bound RTS, released, and leaves an unbound one alone (R127). -/
theorem Uart.Inv.rts_begin {frame : BitVec 4} {baud : Nat} {timing : BitVec 16} (h : u.Inv p) :
    let v := u.begin p frame baud timing
    (v.rtsDriven = true → p.rtsBound = true) ∧ (v.rtsAsserted = true → v.rtsDriven = true) ∧
      (v.begun = true → v.rtsDriven = p.rtsBound) := by
  obtain ⟨driven, asserted, -⟩ := h.rts
  simp only [Uart.begin_rtsDriven, Uart.begin_rtsAsserted, Uart.begin_begun]
  cases bound : p.rtsBound with
  | true => exact ⟨fun _ => rfl, nofun, fun _ => rfl⟩
  | false =>
    have undriven : u.rtsDriven = false := Bool.eq_false_iff.2 fun d => by simp [driven d] at bound
    exact ⟨fun d => elim_of_true d undriven, asserted, fun _ => undriven⟩

theorem Uart.Inv.begin {frame : BitVec 4} {baud : Nat} {timing : BitVec 16} (h : u.Inv p)
    (resolved : baudResolve p baud (doubleSpeed baud) = some timing) : (u.begin p frame baud timing).Inv p where
  rxb := h.rxb.reset
  txb := h.txb.reset
  enables := ⟨rfl, rfl, rfl⟩
  closed := nofun
  rxFlags := nofun
  pipeline := h.pipeline
  rts := h.rts_begin
  cts := ⟨nofun, nofun⟩
  timing _ := baudResolve_eq_some resolved

theorem Uart.Inv.close (h : u.Inv p) : u.close.Inv p where
  rxb := h.rxb.set_tail h.rxb.head_lt
  txb := h.txb.set_tail h.txb.head_lt
  enables := ⟨rfl, rfl, rfl⟩
  closed _ := ⟨rfl, rfl, rfl⟩
  rxFlags _ := ⟨rfl, rfl⟩
  pipeline := h.pipeline
  rts := ⟨h.rts.1, h.rts.2.1, nofun⟩
  cts := ⟨h.cts.1, nofun⟩
  timing := nofun

theorem Uart.Inv.read {b : Option Byte} {rb : RingBuffer} (h : u.Inv p)
    (take : u.rxb.take .rxb p.nRx = .ok (b, rb)) :
    Uart.Inv p { u with rxb := rb, rtsAsserted := rtsAfterRead p u } where
  __ := h
  rxb := RingBuffer.take_wf h.rxb take
  rts := by
    obtain ⟨driven, asserted, begun⟩ := h.rts
    refine ⟨driven, fun on => asserted ?_, begun⟩
    rcases rtsAfterRead_cases p u with same | ⟨-, -, released⟩
    · exact same.symm.trans on
    · exact elim_of_true on released

theorem Uart.Inv.write {rb : RingBuffer} {data : Byte} (h : u.Inv p) (begun : u.begun = true)
    (store : u.txb.store .txb p.nTx data = .ok rb) :
    Uart.Inv p { u with txb := rb, transmitting := true, rxcie := true, dreie := true, txc := false } where
  __ := h
  txb := RingBuffer.store_wf h.txb store
  enables := ⟨h.enables.1, h.enables.2.1, begun.symm⟩
  closed := elim_of_true begun

theorem Uart.Inv.dreie_on (h : u.Inv p) (begun : u.begun = true) : Uart.Inv p { u with dreie := true } where
  __ := h
  closed := elim_of_true begun

theorem Uart.Inv.flush (h : u.Inv p) : Uart.Inv p { u with transmitting := false } where
  __ := h
  closed off := ⟨(h.closed off).1, (h.closed off).2.1, rfl⟩

theorem Uart.Inv.receive (h : u.Inv p) (enabled : u.rxcie = true) (run : isrUartRx p u = .ok v) : v.Inv p := by
  have begun : u.begun = true := h.enables.2.2.symm.trans enabled
  obtain ⟨driven, asserted, bound⟩ := h.rts
  obtain ⟨rb, rfl, ring⟩ := isrUartRx_eq_ok run
  have wf : rb.Wf .rxb p.nRx := by
    rcases ring with ⟨-, rfl⟩ | ⟨-, store⟩
    · exact h.rxb
    · exact RingBuffer.store_wf h.rxb store
  refine { h with rxb := wf, rxFlags := fun _ => ⟨rfl, rfl⟩, rts := ⟨driven, fun on => ?_, bound⟩ }
  split at on
  · next near => exact (bound begun).trans (Bool.and_eq_true_iff.1 near).1
  · exact asserted on

/-- A byte written to the hardware goes behind the shift register if that is busy (R154). -/
theorem Uart.Inv.hwTxWrite (h : u.Inv p) (b : Byte) : (u.hwTxWrite b).Inv p := by
  rcases hwTxWrite_cases u b with ⟨-, written⟩ | ⟨-, -, written⟩ | ⟨-, shifting, written⟩ <;> rw [written]
  · exact h
  · exact { h with pipeline := nofun }
  · exact { h with pipeline := fun free => absurd free shifting }

theorem Uart.Inv.transmit (h : u.Inv p) (begun : u.begun = true) (run : isrUartDre p u = .ok v) : v.Inv p := by
  rcases isrUartDre_eq_ok run with ⟨-, rfl | ⟨bound, irq, rfl⟩⟩ | ⟨-, -, -, rfl⟩
  · exact { h with closed := elim_of_true begun }
  · exact { h with closed := elim_of_true begun, cts := ⟨nofun, fun _ => ⟨bound, irq⟩⟩ }
  · have moved : Uart.Inv p { u with txb := { u.txb with tail := (u.txb.tail + 1) % p.nTx } } :=
      { h with txb := h.txb.set_tail (Nat.mod_lt _ (Nat.zero_lt_of_lt h.txb.tail_lt)) }
    exact moved.hwTxWrite _

theorem Uart.Inv.callBack (h : u.Inv p) (armed : u.ctsIe = true) : (isrUartCts u).Inv p := by
  have begun : u.begun = true := h.begun_of_active (.inr (.inl armed))
  rcases isrUartCts_cases u with ⟨-, called⟩ | ⟨-, -, called⟩ | ⟨-, -, called⟩
  · exact called ▸ { h with closed := elim_of_true begun, cts := ⟨nofun, nofun⟩ }
  · exact called ▸ { h with closed := elim_of_true begun, cts := ⟨nofun, h.cts.2⟩ }
  · exact called ▸ { h with closed := elim_of_true begun, cts := ⟨nofun, h.cts.2⟩ }

theorem Uart.Inv.arrive (h : u.Inv p) (b : Byte) : (u.rxArrive b).Inv p := by
  by_cases lost : u.rxen = false ∨ u.dr = true
  · rw [Uart.rxArrive_of_lost lost]
    exact { h with }
  · rw [not_or, Bool.not_eq_false, Bool.not_eq_true] at lost
    rw [Uart.rxArrive_of_kept lost.1 lost.2]
    exact { h with rxFlags := elim_of_true lost.1 }

theorem Uart.Inv.shift (h : u.Inv p) : u.shiftDone.Inv p where
  __ := h
  pipeline _ := rfl

/-- Every effect on the channel keeps what holds of it. -/
theorem Uart.Effect.inv (h : Uart.Effect m s u) (inv : s.Inv) : u.Inv s.cfg := by
  have old := inv.uart
  cases h with
  | begins _ resolved => exact old.begin resolved
  | closes _ => exact old.close
  | reads _ _ take => exact old.read take
  | writes cause _ store => exact old.write (cause.begun inv.host) store
  | awaitsRoom cause => exact old.dreie_on (cause.begun inv.host)
  | flushes => exact old.flush
  | receives _ enabled run => exact old.receive enabled run
  | transmits cause _ run => exact old.transmit (cause.begun inv) run
  | callsBack armed => exact old.callBack armed
  | arrives data => exact old.arrive data
  | spurious on => exact { old with rxFlags := elim_of_true on }
  | shifts => exact old.shift
  | ctsChanges level bound => exact { old with cts := ⟨fun _ => bound, old.cts.2⟩ }

/-! ### The host's wait -/

/-- The wait of a command that may begin it (R118). -/
theorem State.MayWait.waitingOf_isSome {kind : WaitKind} {cmd : Instr} (h : s.MayWait kind cmd) :
    (waitingOf kind cmd).isSome = true := by
  cases h <;> rfl

/-- A command that begins a wait does not begin or end the channel. -/
theorem State.MayWait.keeps_uart_begun {kind : WaitKind} {cmd : Instr} (h : s.MayWait kind cmd) (hk : kind ≠ .uEnd)
    (idle : s.hstate = .idle) (issue : m.instr = some cmd) (move : takeMove m s = .next t) :
    t.uart.begun = s.uart.begun := by
  rcases takeMove_uart move with same | effect
  · rw [same]
  · rcases effect.begun with same | ⟨frame, baud, issue'⟩ | issue' | ⟨-, e, wait⟩
    · exact same
    · cases issue.symm.trans issue'
      cases h
    · cases issue.symm.trans issue'
      cases h
      exact absurd rfl hk
    · cases idle.symm.trans wait

/-- A move that makes the host wait meets what holds of its wait. -/
theorem hostInv_of_waits {kind : WaitKind} {cmd : Instr} (inv : s.Inv) (idle : s.hstate = .idle)
    (issue : m.instr = some cmd) (may : s.MayWait kind cmd) (move : takeMove m s = .next t)
    (hstate : t.hstate = .wait kind s.ie cmd) (ie : t.ie = s.ie) : t.HostInv := by
  have uart (hk : kind ≠ .uEnd) := may.keeps_uart_begun hk idle issue move
  unfold State.HostInv
  rw [hstate]
  refine ⟨may.waitingOf_isSome, ie.symm, ?_⟩
  cases may with
  | writing data begun => exact (uart nofun).trans begun
  | flushing sending => exact (uart nofun).trans (inv.uart.begun_of_active (.inr (.inr sending)))
  | ending on => exact on
  | composing addr begun => exact takeMove_twi_begun move begun
  | requesting addr count begun => exact takeMove_twi_begun move begun
  | counting begun => exact takeMove_twi_begun move begun

/-- A move that leaves the host waiting keeps what holds of its wait. -/
theorem hostInv_of_stays {kind : WaitKind} {e : Bool} {cmd : Instr} (inv : s.HostInv)
    (wait : s.hstate = .wait kind e cmd) (move : takeMove m s = .next t) (hstate : t.hstate = s.hstate)
    (ie : t.ie = s.ie) : t.HostInv := by
  obtain ⟨some, entry⟩ := inv.of_wait wait
  have uart (hk : kind ≠ .uEnd) := takeMove_uart_begun_of_waiting wait hk move
  unfold State.HostInv
  rw [hstate, wait]
  refine ⟨some, entry.trans ie.symm, ?_⟩
  cases kind with
  | uWrite => exact (uart nofun).trans (inv.begun_of_uart wait (.inl rfl))
  | uFlush => exact (uart nofun).trans (inv.begun_of_uart wait (.inr rfl))
  | uEnd => exact inv.ie_of_uEnd wait
  | tBeginTx => exact takeMove_twi_begun move (inv.begun_of_twi wait (.inl rfl))
  | tRequest => exact takeMove_twi_begun move (inv.begun_of_twi wait (.inr (.inl rfl)))
  | tAvailable => exact takeMove_twi_begun move (inv.begun_of_twi wait (.inr (.inr rfl)))

theorem takeMove_hostInv (inv : s.Inv) (move : takeMove m s = .next t) : t.HostInv := by
  cases takeMove_hostStep move with
  | ends idle => exact State.hostInv_of_idle idle
  | stays hstate ie =>
    cases wait : s.hstate with
    | idle => exact State.hostInv_of_idle (hstate.trans wait)
    | wait kind e cmd => exact hostInv_of_stays inv.host wait move hstate ie
  | waits idle issue may hstate ie => exact hostInv_of_waits inv idle issue may move hstate ie

end Sys2Proof.Machine
end

section
/-! PROOFS. Every move keeps what holds of the TWI controller (10_state.md R64, 44_twi_events.md R207). A begun
controller is in one of three phases: an action of the engine is pending, a flag waits for the handler, or the
controller rests. -/

namespace Sys2Proof.Machine

variable {m : Move} {s : State} {p : Params} {t n : Twi}

/-! ### Flags -/

theorem Twi.anyFlag_eq_false_iff :
    t.anyFlag = false ↔ t.wif = false ∧ t.rif = false ∧ t.arbf = false ∧ t.berf = false := by
  simp only [Twi.anyFlag, Bool.or_eq_false_iff, and_assoc]

theorem Twi.oneFlag_of_noFlag (noFlag : t.anyFlag = false) : t.oneFlag := by
  obtain ⟨wif, rif, arbf, -⟩ := Twi.anyFlag_eq_false_iff.1 noFlag
  exact ⟨elim_of_false wif, elim_of_false rif, elim_of_false arbf⟩

/-! ### The part of the invariant that does not depend on the phase -/

/-- The buffers, the configuration and the codes of a legal controller. -/
structure Twi.Setup (p : Params) (t : Twi) : Prop where
  cap_le : t.cap ≤ p.twiBufMax
  sendbuf : t.sendbuf.Wf .sendbuf t.cap
  recvbuf : t.recvbuf.Wf .recvbuf t.cap
  srs_le : t.srs ≤ t.cap
  irqen : t.irqen = t.begun
  begun : t.begun = true → 0 < t.cap ∧ validSpeed t.speed = true ∧ t.div = twiDivisor p t.speed
  room : 0 < t.srs → t.recvbuf.mode = .fill ∧ t.recvbuf.pos + t.srs ≤ t.cap
  codes : (t.werr = 0 ∨ t.werr = Status.writeNotStarted.code ∨ t.werr = Status.sendBufferFull.code) ∧
    t.tresult.toNat ≤ 4

theorem Twi.Inv.setup (h : t.Inv p) : t.Setup p where
  cap_le := h.cap_le
  sendbuf := h.sendbuf
  recvbuf := h.recvbuf
  srs_le := h.srs_le
  irqen := h.irqen
  begun := h.begun
  room := h.room
  codes := h.codes

/-! ### The three phases -/

/-- The pending action of the engine and the transaction state agree (R207). -/
def Twi.Agrees (t : Twi) : Prop :=
  (t.eng = .addrW ∧ t.tstate = .addressPending) ∨
    (t.eng = .addrR ∧ (t.tstate = .addressPending ∨ t.tstate = .repeatedStart)) ∨
    (t.eng = .dataW ∧ t.tstate = .writingData) ∨ (t.eng = .recv ∧ t.tstate = .readingData) ∨
    (t.eng = .stop ∧ t.tstate = .idle ∧
      (t.tresult = TwiResult.success.code ∨ t.tresult = TwiResult.nack.code))

/-- The outcome of a transaction that ended with an error is recorded (R203, R204). -/
def Twi.Failed (t : Twi) : Prop :=
  (t.tstate = .arbLost ∧ t.tresult = TwiResult.arbLost.code) ∨
    (t.tstate = .busError ∧ t.tresult = TwiResult.busError.code)

/-- A begun controller that composes nothing. -/
structure Twi.InFlight (t : Twi) : Prop where
  begun : t.begun = true
  busy : t.busIdle = false
  inactive : t.txActive = false

theorem Twi.Phase.of_action (noFlag : t.anyFlag = false) (busy : t.busIdle = false) (agrees : t.Agrees) :
    t.Phase := by
  obtain ⟨wif, rif, arbf, berf⟩ := Twi.anyFlag_eq_false_iff.1 noFlag
  have error : ¬ (t.arbf = true ∨ t.berf = true) := fun e => e.elim (elim_of_false arbf) (elim_of_false berf)
  unfold Twi.Agrees at agrees
  refine ⟨?_, ?_, ?_, ?_, ?_, elim_of_false wif, elim_of_false rif, (absurd · error), ?_, elim_of_false busy⟩
  all_goals
    intros
    simp_all

/-- An action of the engine is pending. -/
theorem Twi.Inv.of_action (setup : n.Setup p) (flight : n.InFlight) (noFlag : n.anyFlag = false) (agrees : n.Agrees)
    (expecting : n.eng = .addrR ∨ n.eng = .recv → 0 < n.srs) : n.Inv p where
  __ := setup
  oneFlag := Twi.oneFlag_of_noFlag noFlag
  flagEng := elim_of_false noFlag
  composing := elim_of_false flight.inactive
  idle := elim_of_false flight.busy
  unbegun := elim_of_true flight.begun
  expecting := fun e => by
    rcases e with e | e | rif
    · exact expecting (.inl e)
    · exact expecting (.inr e)
    · exact elim_of_false (Twi.anyFlag_eq_false_iff.1 noFlag).2.1 rif
  phase := .of_action noFlag flight.busy agrees

/-- A flag waits for the handler. -/
theorem Twi.Inv.of_flag (setup : n.Setup p) (flight : n.InFlight) (rest : n.eng = .none) (one : n.oneFlag)
    (flag : n.anyFlag = true) (expecting : n.rif = true → 0 < n.srs)
    (wif : n.wif = true →
      n.tstate = .addressPending ∨ n.tstate = .writingData ∨ (n.nackf = true ∧ n.tstate = .repeatedStart))
    (rif : n.rif = true → n.tstate = .addressPending ∨ n.tstate = .repeatedStart ∨ n.tstate = .readingData)
    (error : n.arbf = true ∨ n.berf = true →
      n.tstate = .addressPending ∨ n.tstate = .writingData ∨ n.tstate = .repeatedStart ∨ n.tstate = .readingData) :
    n.Inv p where
  __ := setup
  oneFlag := one
  flagEng _ := rest
  composing := elim_of_false flight.inactive
  idle := elim_of_false flight.busy
  unbegun := elim_of_true flight.begun
  expecting := by simpa [rest] using expecting
  phase :=
    { addrW := by simp [rest], addrR := by simp [rest], dataW := by simp [rest], recv := by simp [rest]
      stop := by simp [rest], wif, rif, error
      quiet := fun _ _ _ => elim_of_true flag, idle := elim_of_false flight.busy }

/-- The controller rests: the bus is idle, or an error keeps it from being so. -/
theorem Twi.Inv.of_rest (setup : n.Setup p) (begun : n.begun = true) (inactive : n.txActive = false)
    (rest : n.eng = .none) (noFlag : n.anyFlag = false) (state : n.busIdle = true ∧ n.tstate = .idle ∨ n.Failed) :
    n.Inv p where
  __ := setup
  oneFlag := Twi.oneFlag_of_noFlag noFlag
  flagEng _ := rest
  composing := elim_of_false inactive
  idle _ := ⟨begun, rest, noFlag⟩
  unbegun := elim_of_true begun
  expecting := by simp [rest, (Twi.anyFlag_eq_false_iff.1 noFlag).2.1]
  phase := by
    obtain ⟨wif, rif, arbf, berf⟩ := Twi.anyFlag_eq_false_iff.1 noFlag
    exact
      { addrW := by simp [rest], addrR := by simp [rest], dataW := by simp [rest], recv := by simp [rest]
        stop := by simp [rest], wif := elim_of_false wif, rif := elim_of_false rif
        error := fun e => e.elim (elim_of_false arbf) (elim_of_false berf)
        quiet := fun _ busy _ _ => state.resolve_left fun free => elim_of_true free.1 busy
        idle := fun _ => state.elim (fun free => .inl free.2)
          fun failed => .inr (failed.imp And.left And.left) }

/-! ### What the invariant says of each phase -/

/-- An idle bus is a begun controller with nothing pending (R183). -/
theorem Twi.Inv.of_free (h : t.Inv p) (free : t.busIdle = true) :
    t.begun = true ∧ t.arbf = false ∧ t.berf = false := by
  obtain ⟨begun, -, noFlag⟩ := h.idle free
  exact ⟨begun, (Twi.anyFlag_eq_false_iff.1 noFlag).2.2⟩

theorem Twi.Inv.inFlight_of_not_rest (h : t.Inv p) (active : t.eng ≠ .none ∨ t.anyFlag = true) : t.InFlight := by
  have not_rest : ¬ (t.eng = .none ∧ t.anyFlag = false) := fun ⟨rest, noFlag⟩ =>
    active.elim (fun ne => ne rest) (elim_of_false noFlag)
  have busy : t.busIdle = false := Bool.eq_false_iff.2 fun free => not_rest (h.idle free).2
  refine ⟨?_, busy, Bool.eq_false_iff.2 fun composing => elim_of_true (h.composing composing).2.1 busy⟩
  by_contra closed
  exact not_rest (h.unbegun (Bool.not_eq_true _ ▸ closed)).2

theorem Twi.Inv.noFlag_of_action (h : t.Inv p) (active : t.eng ≠ .none) : t.anyFlag = false :=
  Bool.eq_false_iff.2 fun flag => active (h.flagEng flag)

/-! ### Commands -/

theorem Twi.Inv.begin {own : Byte} {speed : BitVec 4} {cap : Nat} (valid : validSpeed speed = true) (pos : 0 < cap)
    (le : cap ≤ p.twiBufMax) (t : Twi) : (t.begin p own speed cap).Inv p := by
  have setup : (t.begin p own speed cap).Setup p :=
    { cap_le := le, sendbuf := TwiBuffer.clear_wf (Memory.wf_nil _ _)
      recvbuf := TwiBuffer.clear_wf (Memory.wf_nil _ _), srs_le := Nat.zero_le _, irqen := rfl
      begun := fun _ => ⟨pos, valid, rfl⟩, room := fun expected => absurd expected (Nat.lt_irrefl 0)
      codes := ⟨.inl rfl, Nat.zero_le 4⟩ }
  exact .of_rest setup rfl rfl rfl rfl (.inl ⟨rfl, rfl⟩)

/-- Bit 0 of the address byte of a write is 0 (R171). -/
theorem slaWrite_bit (addr : Byte) : (slaWrite addr).getLsbD 0 = false := by
  rw [slaWrite, BitVec.getLsbD_append]
  rfl

theorem addrEng_slaRead (addr : Byte) : addrEng (slaRead addr) = .addrR := by
  rw [addrEng, slaRead, BitVec.getLsbD_append]
  rfl

theorem Twi.Inv.compose (h : t.Inv p) (free : t.busIdle = true) (addr : Byte) : (t.compose addr).Inv p where
  __ := h
  sendbuf := TwiBuffer.clear_wf h.sendbuf.data_wf
  composing _ := ⟨(h.of_free free).1, free, rfl, slaWrite_bit addr⟩
  codes := ⟨.inl rfl, h.codes.2⟩
  phase := { h.phase with }

/-- The receive buffer of a new transaction has room for what it may expect (R173, R174). -/
theorem Twi.Inv.launch_setup (h : t.Inv p) {count : Nat} {sb : TwiBuffer} {sla : Byte} (le : count ≤ t.cap)
    (wf : sb.Wf .sendbuf t.cap) :
    Twi.Setup p { t with
      sendbuf := sb, recvbuf := t.recvbuf.clear t.cap, srs := count, sla := sla, txActive := false
      tstate := .addressPending } where
  __ := h.setup
  sendbuf := wf
  recvbuf := TwiBuffer.clear_wf h.recvbuf.data_wf
  srs_le := le
  room _ := ⟨rfl, by simpa using le⟩

/-- After a bus action a controller has no transfer flag, and an idle bus had no error flag (R195). -/
theorem Twi.anyFlag_of_action (wif : n.wif = false) (rif : n.rif = false) (arbf : n.arbf = false)
    (berf : n.berf = false) : n.anyFlag = false :=
  Twi.anyFlag_eq_false_iff.2 ⟨wif, rif, arbf, berf⟩

theorem Twi.Inv.launchRead (h : t.Inv p) {addr : Byte} {count : Nat} (free : t.busIdle = true) (pos : 0 < count)
    (le : count ≤ t.cap) : (t.launchRead addr count).Inv p := by
  obtain ⟨begun, arbf, berf⟩ := h.of_free free
  have setup : (t.launchRead addr count).Setup p :=
    { h.launch_setup (sla := slaRead addr) le (TwiBuffer.clear_wf h.sendbuf.data_wf) with }
  exact .of_action setup ⟨begun, rfl, rfl⟩ (Twi.anyFlag_of_action rfl rfl arbf berf)
    (.inr (.inl ⟨addrEng_slaRead addr, .inl rfl⟩)) fun _ => pos

theorem Twi.Inv.launchWrite (h : t.Inv p) {count : Nat} (composing : t.txActive = true) (le : count ≤ t.cap) :
    (t.launchWrite count).Inv p := by
  obtain ⟨begun, free, -, bit⟩ := h.composing composing
  obtain ⟨-, arbf, berf⟩ := h.of_free free
  have eng : (t.launchWrite count).eng = .addrW := by
    rw [Twi.launchWrite_eng, addrEng, bit]
    rfl
  have setup : (t.launchWrite count).Setup p :=
    { h.launch_setup (sla := t.sla) le (TwiBuffer.flip_wf h.sendbuf) with }
  exact .of_action setup ⟨begun, rfl, rfl⟩ (Twi.anyFlag_of_action rfl rfl arbf berf) (.inl ⟨eng, rfl⟩)
    (by rw [eng]; nofun)

theorem Twi.Inv.recordError (h : t.Inv p) {st : Status} (code : st = .writeNotStarted ∨ st = .sendBufferFull) :
    Twi.Inv p { t with werr := st.code } where
  __ := h
  codes := ⟨.inr (code.imp (congrArg Status.code) (congrArg Status.code)), h.codes.2⟩
  phase := { h.phase with }

theorem Twi.Inv.write (h : t.Inv p) {data : Byte} {sb : TwiBuffer}
    (put : t.sendbuf.put .sendbuf t.cap data = .ok (true, sb)) : Twi.Inv p { t with sendbuf := sb } where
  __ := h
  sendbuf := TwiBuffer.put_wf h.sendbuf put
  composing active := by
    obtain ⟨begun, free, fill, bit⟩ := h.composing active
    refine ⟨begun, free, ?_, bit⟩
    rcases TwiBuffer.put_eq_ok put with ⟨-, -, -, accepted⟩ | ⟨-, refused⟩
    · exact (congrArg (fun r => r.2.mode) accepted).trans fill
    · cases refused
  phase := { h.phase with }

/-- A receive buffer that expects a byte is not read: it is filling (R206). -/
theorem Twi.Inv.read (h : t.Inv p) {b : Option Byte} {rb : TwiBuffer}
    (get : t.recvbuf.get .recvbuf t.cap = .ok (b, rb)) : Twi.Inv p { t with recvbuf := rb } where
  __ := h
  recvbuf := TwiBuffer.get_wf h.recvbuf get
  room expected := by
    obtain ⟨fill, room⟩ := h.room expected
    rcases TwiBuffer.get_eq_ok get with ⟨drain, -⟩ | ⟨-, same⟩
    · cases fill.symm.trans drain
    · obtain rfl := (Prod.mk.inj same).2
      exact ⟨fill, room⟩
  phase := { h.phase with }

/-! ### Bus stimuli -/

/-- While an action of the engine is pending no flag is set (R64). -/
theorem Twi.Inv.of_pending (h : t.Inv p) (pending : t.eng ≠ .none) :
    (t.wif = false ∧ t.rif = false ∧ t.arbf = false ∧ t.berf = false) ∧ t.InFlight :=
  ⟨Twi.anyFlag_eq_false_iff.1 (h.noFlag_of_action pending), h.inFlight_of_not_rest (.inl pending)⟩

/-- The end of a write or address transfer, acknowledged or not, sets `WIF` (R196, R197). -/
theorem Twi.Inv.transferDone (h : t.Inv p) (nack : Bool) (pending : t.eng ≠ .none)
    (state : t.tstate = .addressPending ∨ t.tstate = .writingData ∨ (nack = true ∧ t.tstate = .repeatedStart)) :
    Twi.Inv p { t with eng := .none, nackf := nack, wif := true } := by
  obtain ⟨⟨-, rif, arbf, berf⟩, begun, busy, inactive⟩ := h.of_pending pending
  exact .of_flag { h.setup with } ⟨begun, busy, inactive⟩ rfl
    ⟨fun _ => ⟨rif, arbf, berf⟩, elim_of_false rif, elim_of_false arbf⟩ rfl (elim_of_false rif) (fun _ => state)
    (elim_of_false rif) (fun e => e.elim (elim_of_false arbf) (elim_of_false berf))

theorem Twi.Inv.ack (h : t.Inv p) (can : t.eng.canAck = true) :
    Twi.Inv p { t with eng := .none, nackf := false, wif := true } := by
  rcases Eng.canAck_iff.1 can with eng | eng <;> refine h.transferDone false (by rw [eng]; nofun) ?_
  · exact .inl (h.phase.addrW eng)
  · exact .inr (.inl (h.phase.dataW eng))

theorem Twi.Inv.nack (h : t.Inv p) (can : t.eng.canNack = true) :
    Twi.Inv p { t with eng := .none, nackf := true, wif := true } := by
  rcases Eng.canNack_iff.1 can with eng | eng | eng <;> refine h.transferDone true (by rw [eng]; nofun) ?_
  · exact .inl (h.phase.addrW eng)
  · exact (h.phase.addrR eng).imp_right fun state => .inr ⟨rfl, state⟩
  · exact .inr (.inl (h.phase.dataW eng))

theorem Twi.Inv.byteArrived (h : t.Inv p) (data : Byte) (can : t.eng.canReceive = true) :
    Twi.Inv p { t with eng := .none, dataIn := data, nackf := false, rif := true } := by
  have active := Eng.canReceive_iff.1 can
  have pending : t.eng ≠ .none := by rcases active with eng | eng <;> rw [eng] <;> nofun
  obtain ⟨⟨wif, -, arbf, berf⟩, begun, busy, inactive⟩ := h.of_pending pending
  have state : t.tstate = .addressPending ∨ t.tstate = .repeatedStart ∨ t.tstate = .readingData := by
    rcases active with eng | eng
    · exact (h.phase.addrR eng).imp_right .inl
    · exact .inr (.inr (h.phase.recv eng))
  have expected : 0 < t.srs := h.expecting (active.imp_right .inl)
  exact .of_flag { h.setup with } ⟨begun, busy, inactive⟩ rfl
    ⟨elim_of_false wif, fun _ => ⟨arbf, berf⟩, elim_of_false arbf⟩ (Twi.anyFlag_iff.2 (.inr (.inl rfl)))
    (fun _ => expected) (elim_of_false wif) (fun _ => state)
    (fun e => e.elim (elim_of_false arbf) (elim_of_false berf))

/-- A transfer is pending only in a state of a running transaction (R207). -/
theorem Twi.Inv.state_of_transfer (h : t.Inv p) (transfer : t.eng.inTransfer = true) :
    t.tstate = .addressPending ∨ t.tstate = .writingData ∨ t.tstate = .repeatedStart ∨ t.tstate = .readingData := by
  rcases Eng.inTransfer_iff.1 transfer with eng | eng | eng | eng
  · exact .inl (h.phase.addrW eng)
  · exact (h.phase.addrR eng).imp_right fun state => .inr (.inl state)
  · exact .inr (.inl (h.phase.dataW eng))
  · exact .inr (.inr (.inr (h.phase.recv eng)))

theorem Eng.ne_none_of_inTransfer {e : Eng} (transfer : e.inTransfer = true) : e ≠ .none := by
  rintro rfl
  cases transfer

theorem Twi.Inv.arbLost (h : t.Inv p) (transfer : t.eng.inTransfer = true) :
    Twi.Inv p { t with eng := .none, arbf := true } := by
  obtain ⟨⟨wif, rif, -, berf⟩, begun, busy, inactive⟩ := h.of_pending (Eng.ne_none_of_inTransfer transfer)
  exact .of_flag { h.setup with } ⟨begun, busy, inactive⟩ rfl
    ⟨elim_of_false wif, elim_of_false rif, fun _ => berf⟩ (Twi.anyFlag_iff.2 (.inr (.inr (.inl rfl))))
    (elim_of_false rif) (elim_of_false wif) (elim_of_false rif) (fun _ => h.state_of_transfer transfer)

theorem Twi.Inv.busErr (h : t.Inv p) (transfer : t.eng.inTransfer = true) :
    Twi.Inv p { t with eng := .none, berf := true } := by
  obtain ⟨⟨wif, rif, arbf, -⟩, begun, busy, inactive⟩ := h.of_pending (Eng.ne_none_of_inTransfer transfer)
  exact .of_flag { h.setup with } ⟨begun, busy, inactive⟩ rfl
    ⟨elim_of_false wif, elim_of_false rif, elim_of_false arbf⟩ (Twi.anyFlag_iff.2 (.inr (.inr (.inr rfl))))
    (elim_of_false rif) (elim_of_false wif) (elim_of_false rif) (fun _ => h.state_of_transfer transfer)

/-- The outcome of the transaction is recorded when the bus may report idle (R201, R259). -/
theorem Twi.Inv.recorded_of_canGoIdle (h : t.Inv p) (can : t.canGoIdle = true) :
    (t.tstate = .idle ∧ (t.tresult = TwiResult.success.code ∨ t.tresult = TwiResult.nack.code)) ∨ t.Failed := by
  obtain ⟨begun, busy, stop | ⟨rest, -, noFlag⟩⟩ := Twi.canGoIdle_iff.1 can
  · exact .inl (h.phase.stop stop)
  · exact .inr (h.phase.quiet begun busy rest (Twi.anyFlag_eq_false_iff.2 noFlag))

theorem Twi.Inv.goIdle (h : t.Inv p) (can : t.canGoIdle = true) :
    Twi.Inv p { t with eng := .none, busIdle := true } := by
  obtain ⟨begun, busy, cause⟩ := Twi.canGoIdle_iff.1 can
  have noFlag : t.anyFlag = false := by
    rcases cause with stop | ⟨-, -, noFlag⟩
    · exact h.noFlag_of_action (by rw [stop]; nofun)
    · exact Twi.anyFlag_eq_false_iff.2 noFlag
  have inactive : t.txActive = false := Bool.eq_false_iff.2 fun a => elim_of_true (h.composing a).2.1 busy
  exact .of_rest { h.setup with } begun inactive rfl noFlag
    ((h.recorded_of_canGoIdle can).imp_left fun ended => ⟨rfl, ended.1⟩)

/-! ### The handler -/

/-- Every transaction result is a legal code (R105). -/
theorem TwiResult.code_le (r : TwiResult) : r.code.toNat ≤ 4 := by
  cases r <;> decide

theorem Twi.Inv.arbBranch (h : t.Inv p) (arb : t.arbf = true) : (twiArbBranch t).Inv p := by
  have flag : t.anyFlag = true := Twi.anyFlag_iff.2 (.inr (.inr (.inl arb)))
  obtain ⟨begun, -, inactive⟩ := h.inFlight_of_not_rest (.inr flag)
  have setup : (twiArbBranch t).Setup p := { h.setup with codes := ⟨h.codes.1, TwiResult.code_le .arbLost⟩ }
  exact .of_rest setup begun inactive (h.flagEng flag)
    (Twi.anyFlag_eq_false_iff.2 ⟨rfl, rfl, rfl, h.oneFlag.2.2 arb⟩) (.inr (.inl ⟨rfl, rfl⟩))

theorem Twi.Inv.busErrBranch (h : t.Inv p) (noArb : t.arbf = false) (err : t.berf = true) :
    (twiBusErrBranch t).Inv p := by
  have flag : t.anyFlag = true := Twi.anyFlag_iff.2 (.inr (.inr (.inr err)))
  obtain ⟨begun, -, inactive⟩ := h.inFlight_of_not_rest (.inr flag)
  have setup : (twiBusErrBranch t).Setup p :=
    { h.setup with codes := ⟨h.codes.1, TwiResult.code_le .busError⟩ }
  exact .of_rest setup begun inactive (h.flagEng flag)
    (Twi.anyFlag_eq_false_iff.2 ⟨rfl, rfl, noArb, rfl⟩) (.inr (.inr ⟨rfl, rfl⟩))

/-- The handler stops the bus at the end of a transaction, with its result (R205, R206). -/
theorem Twi.Inv.stop_finish (h : t.Setup p) (flight : t.InFlight) (noArb : t.arbf = false) (noErr : t.berf = false)
    {r : TwiResult} (hr : r = .success ∨ r = .nack) : (t.stop.finish r).Inv p := by
  have setup : (t.stop.finish r).Setup p :=
    { h with codes := ⟨h.codes.1, r.code_le⟩ }
  exact .of_action setup ⟨flight.begun, flight.busy, flight.inactive⟩ (Twi.anyFlag_of_action rfl rfl noArb noErr)
    (.inr (.inr (.inr (.inr ⟨rfl, rfl, hr.imp (congrArg TwiResult.code) (congrArg TwiResult.code)⟩)))) nofun

theorem Twi.Inv.writeBranch (h : t.Inv p) (noArb : t.arbf = false) (noErr : t.berf = false) (wif : t.wif = true)
    (run : twiWriteBranch t = .ok n) : n.Inv p := by
  have flight : t.InFlight := h.inFlight_of_not_rest (.inr (Twi.anyFlag_iff.2 (.inl wif)))
  have noFlag {u : Twi} (hw : u.wif = false) (hr : u.rif = false) (ha : u.arbf = t.arbf) (hb : u.berf = t.berf) :
      u.anyFlag = false := Twi.anyFlag_of_action hw hr (ha.trans noArb) (hb.trans noErr)
  rcases twiWriteBranch_eq_ok run with ⟨-, rfl⟩ | ⟨-, more, -, rfl⟩ | ⟨-, -, expected, rfl⟩ | ⟨-, -, -, rfl⟩
  · exact .stop_finish h.setup flight noArb noErr (.inr rfl)
  · have lt := (TwiBuffer.remaining_pos_iff.1 more).2
    have wf := h.sendbuf
    refine .of_action { h.setup with sendbuf := ⟨lt, wf.lim_le, wf.fill_lim, wf.data_wf⟩ }
      ⟨flight.begun, flight.busy, flight.inactive⟩ (noFlag rfl rfl rfl rfl)
      (.inr (.inr (.inl ⟨rfl, rfl⟩))) nofun
  · exact .of_action { h.setup with } ⟨flight.begun, rfl, flight.inactive⟩ (noFlag rfl rfl rfl rfl)
      (.inr (.inl ⟨addrEng_slaRepeat t.sla, .inr rfl⟩)) fun _ => expected
  · exact .stop_finish h.setup flight noArb noErr (.inl rfl)

/-- Keeping an expected byte keeps the controller legal, and the room for those that follow (R206). -/
theorem Twi.Setup.keepByte (h : t.Setup p) (run : twiKeepByte t = .ok n) : n.Setup p := by
  rcases twiKeepByte_eq_ok run with ⟨-, rfl⟩ | ⟨expected, r, put, rfl⟩
  · exact h
  · obtain ⟨fill, room⟩ := h.room expected
    refine { h with
      recvbuf := TwiBuffer.put_wf h.recvbuf put, srs_le := (Nat.sub_le _ _).trans h.srs_le, room := fun _ => ?_ }
    rcases TwiBuffer.put_eq_ok put with ⟨-, -, -, rfl⟩ | ⟨full, -⟩
    · exact ⟨fill, by dsimp only; omega⟩
    · exact absurd ⟨fill, by rw [h.recvbuf.fill_lim fill]; omega⟩ full

theorem Twi.Inv.readBranch (h : t.Inv p) (noArb : t.arbf = false) (noErr : t.berf = false) (rif : t.rif = true)
    (run : twiReadBranch t = .ok n) : n.Inv p := by
  obtain ⟨begun, busy, inactive⟩ := h.inFlight_of_not_rest (.inr (Twi.anyFlag_iff.2 (.inr (.inl rif))))
  obtain ⟨k, keep, rfl⟩ := twiReadBranch_eq_ok run
  have setup := h.setup.keepByte keep
  have frame : k.InFlight ∧ k.arbf = false ∧ k.berf = false := by
    rcases twiKeepByte_eq_ok keep with ⟨-, rfl⟩ | ⟨-, r, -, rfl⟩ <;> exact ⟨⟨begun, busy, inactive⟩, noArb, noErr⟩
  obtain ⟨⟨begun, busy, inactive⟩, noArb, noErr⟩ := frame
  unfold twiReadNext
  split
  · next expected =>
    exact .of_action { setup with } ⟨begun, busy, inactive⟩ (Twi.anyFlag_of_action rfl rfl noArb noErr)
      (.inr (.inr (.inr (.inl ⟨rfl, rfl⟩)))) fun _ => expected
  · next ended =>
    refine .of_action { setup with
        recvbuf := TwiBuffer.flip_wf setup.recvbuf, room := fun expected => absurd expected ended
        codes := ⟨setup.codes.1, TwiResult.code_le .success⟩ } ⟨begun, busy, inactive⟩
      (Twi.anyFlag_of_action rfl rfl noArb noErr) (.inr (.inr (.inr (.inr ⟨rfl, rfl, .inl rfl⟩)))) nofun

theorem Twi.Inv.handle (h : t.Inv p) (run : isrTwi t = .ok n) : n.Inv p := by
  rcases isrTwi_eq_ok run with ⟨arb, rfl⟩ | ⟨noArb, err, rfl⟩ | ⟨noArb, noErr, wif, write⟩ |
    ⟨noArb, noErr, -, rif, read⟩ | ⟨-, rfl⟩
  · exact h.arbBranch arb
  · exact h.busErrBranch noArb err
  · exact h.writeBranch noArb noErr wif write
  · exact h.readBranch noArb noErr rif read
  · exact h

/-! ### Moves -/

/-- Every effect on the controller keeps what holds of it. -/
theorem Twi.Effect.inv (h : Twi.Effect m s n) (old : s.twi.Inv s.cfg) : n.Inv s.cfg := by
  cases h with
  | begins _ _ valid pos le => exact .begin valid pos le s.twi
  | composes addr free => exact old.compose free addr
  | launchesRead free pos le => exact old.launchRead free pos le
  | launchesWrite composing le _ => exact old.launchWrite composing le
  | recordsError code => exact old.recordError code
  | writes put => exact old.write put
  | reads get => exact old.read get
  | handles run => exact old.handle run
  | acks can => exact old.ack can
  | nacks can => exact old.nack can
  | receives data can => exact old.byteArrived data can
  | losesArbitration transfer => exact old.arbLost transfer
  | errs transfer => exact old.busErr transfer
  | idles can => exact old.goIdle can

/-- A move leaves `FAULT` at one of the codes of R107. -/
theorem takeMove_fault_le {t : State} (old : s.fault.toNat ≤ 3) (move : takeMove m s = .next t) :
    t.fault.toNat ≤ 3 := by
  rcases takeMove_keepsOrRaises move with keeps | ⟨-, f, rfl⟩
  · exact keeps.fault ▸ old
  · rw [State.raise_fault]
    split
    · cases f <;> decide
    · exact old

/-- Every move keeps the invariant. -/
theorem takeMove_inv {t : State} (inv : s.Inv) (move : takeMove m s = .next t) : t.Inv where
  uart := by
    rw [takeMove_cfg move]
    rcases takeMove_uart move with same | effect
    · exact same ▸ inv.uart
    · exact effect.inv inv
  twi := by
    rw [takeMove_cfg move]
    rcases takeMove_twi move with same | effect
    · exact same ▸ inv.twi
    · exact effect.inv inv.twi
  host := takeMove_hostInv inv move
  fault := takeMove_fault_le inv.fault move

/-- The schedule is no part of the invariant. -/
theorem State.Inv.withSched (inv : s.Inv) (rest : List Move) : State.Inv { s with sched := rest } :=
  ⟨inv.uart, inv.twi, inv.host, inv.fault⟩

/-- Settles O54: a step is a move on the state without that move scheduled, and every move keeps the invariant. -/
theorem stepKeepsInvariant : Obligations.StepKeepsInvariant := by
  refine ⟨fun s t inv h => ?_, fun s inv => ?_⟩
  · cases sched : s.sched with
    | nil =>
      rw [step_of_no_sched sched] at h
      cases h
      exact inv
    | cons m rest =>
      rw [step_of_sched sched] at h
      exact takeMove_inv (inv.withSched rest) h
  · have rxb := inv.uart.rxb
    have txb := inv.uart.txb
    have sb := inv.twi.sendbuf
    have rb := inv.twi.recvbuf
    exact ⟨⟨rxb.head_lt, rxb.tail_lt, txb.head_lt, txb.tail_lt⟩, ⟨rxb.occ_le, txb.occ_le⟩,
      ⟨sb.pos_le, sb.lim_le, rb.pos_le, rb.lim_le⟩, inv.twi.srs_le,
      fun ⟨wif, rif⟩ => elim_of_true rif (inv.twi.oneFlag.1 wif).1,
      fun flag => inv.twi.flagEng (Twi.anyFlag_iff.2 (flag.imp_right .inl)),
      fun composing => (inv.twi.composing composing).1⟩

end Sys2Proof.Machine
end

section
/-! PROOFS. From a state that meets the invariant no step faults (20_memory.md R65): every primitive, handler and
wait answers there. -/

namespace Sys2Proof.Machine

variable {m : Move} {s : State} {p : Params} {u : Uart} {t : Twi}

/-- A computation that stops with no fault. -/
def Answers {α : Type} (x : Except Fault α) : Prop := ∃ a, x = .ok a

theorem answers_ok {α : Type} (a : α) : Answers (.ok a) := ⟨a, rfl⟩

theorem Answers.bind {α β : Type} {x : Except Fault α} {f : α → Except Fault β} (hx : Answers x)
    (hf : ∀ a, Answers (f a)) : Answers (x >>= f) := by
  obtain ⟨a, rfl⟩ := hx
  exact hf a

theorem answers_ite {α : Type} {c : Prop} [Decidable c] {x y : Except Fault α} (hx : c → Answers x)
    (hy : ¬ c → Answers y) : Answers (if c then x else y) := by
  split
  · next h => exact hx h
  · next h => exact hy h

/-! ### Primitives -/

theorem RingBuffer.store_answers {id : MemId} {n : Nat} {rb : RingBuffer} (w : rb.Wf id n) (b : Byte) :
    Answers (rb.store id n b) := by
  obtain ⟨rb', stored, -⟩ := RingBuffer.store_of_wf w b
  exact ⟨rb', stored⟩

theorem RingBuffer.take_answers {id : MemId} {n : Nat} {rb : RingBuffer} (w : rb.Wf id n) :
    Answers (rb.take id n) := by
  cases e : rb.empty with
  | true => exact ⟨_, RingBuffer.take_of_empty e⟩
  | false => exact ⟨_, RingBuffer.take_of_some e w.tail_lt⟩

theorem TwiBuffer.put_answers {id : MemId} {cap : Nat} {tb : TwiBuffer} (w : tb.Wf id cap) (b : Byte) :
    Answers (tb.put id cap b) := by
  by_cases room : tb.mode = .fill ∧ tb.pos < tb.lim
  · exact ⟨_, TwiBuffer.put_of_room w room.1 room.2 b⟩
  · exact ⟨_, TwiBuffer.put_of_no_room room b⟩

theorem TwiBuffer.get_answers {id : MemId} {cap : Nat} {tb : TwiBuffer} (w : tb.Wf id cap) :
    Answers (tb.get id cap) := by
  by_cases more : tb.mode = .drain ∧ tb.pos < tb.lim
  · exact ⟨_, TwiBuffer.get_of_some w more.1 more.2⟩
  · exact ⟨_, TwiBuffer.get_of_none more⟩

/-! ### Handlers and waits -/

theorem isrUartRx_answers (w : u.rxb.Wf .rxb p.nRx) : Answers (isrUartRx p u) := by
  cases valid : u.dr with
  | false => exact ⟨_, isrUartRx_of_ring (.inl ⟨valid, rfl⟩)⟩
  | true =>
    obtain ⟨rb, stored⟩ := RingBuffer.store_answers w u.udrRx
    exact ⟨_, isrUartRx_of_ring (.inr ⟨valid, stored⟩)⟩

theorem isrUartDre_answers (w : u.txb.Wf .txb p.nTx) : Answers (isrUartDre p u) := by
  cases stop : ctsStop p u with
  | true =>
    cases irq : p.ctsEdgeIrq with
    | true => exact ⟨_, isrUartDre_of_stop_armed stop irq⟩
    | false => exact ⟨_, isrUartDre_of_stop_unarmed stop irq⟩
  | false =>
    cases drained : u.txb.empty with
    | true => exact ⟨_, isrUartDre_of_drained stop drained⟩
    | false => exact ⟨_, isrUartDre_of_moving stop drained w.tail_lt⟩

theorem twiWriteBranch_answers (w : t.sendbuf.Wf .sendbuf t.cap) : Answers (twiWriteBranch t) := by
  refine answers_ite (fun _ => answers_ok _) fun _ => answers_ite (fun _ => ?_) fun _ =>
    answers_ite (fun _ => answers_ok _) fun _ => answers_ok _
  refine (TwiBuffer.get_answers w).bind fun r => ?_
  obtain ⟨b, sb⟩ := r
  cases b <;> exact answers_ok _

theorem twiReadBranch_answers (w : t.recvbuf.Wf .recvbuf t.cap) : Answers (twiReadBranch t) := by
  have keep : Answers (twiKeepByte t) :=
    answers_ite (fun _ => (TwiBuffer.put_answers w t.dataIn).bind fun _ => answers_ok _) fun _ => answers_ok _
  exact keep.bind fun _ => answers_ok _

theorem isrTwi_answers (h : t.Inv p) : Answers (isrTwi t) :=
  answers_ite (fun _ => answers_ok _) fun _ => answers_ite (fun _ => answers_ok _) fun _ =>
    answers_ite (fun _ => twiWriteBranch_answers h.sendbuf) fun _ =>
      answers_ite (fun _ => twiReadBranch_answers h.recvbuf) fun _ => answers_ok _

theorem runHandler_answers (inv : s.Inv) (src : IrqSource) : Answers (runHandler src s) := by
  cases src with
  | uartRx => exact (isrUartRx_answers inv.uart.rxb).bind fun _ => answers_ok _
  | uartDre => exact (isrUartDre_answers inv.uart.txb).bind fun _ => answers_ok _
  | uartCts => exact answers_ok _
  | twi => exact (isrTwi_answers inv.twi).bind fun _ => answers_ok _

theorem replayDre_answers (inv : s.Inv) : Answers (replayDre s) :=
  answers_ite (fun _ => runHandler_answers inv .uartDre) fun _ => answers_ok _

theorem twiRetry_answers (inv : s.Inv) (e : Bool) : Answers (twiRetry e s) :=
  answers_ite (fun _ => answers_ok _) fun _ =>
    answers_ite (fun _ => runHandler_answers inv .twi) fun _ => answers_ok _

/-- The post-part and the retry of each of the six waits answer (R118 to R120). -/
theorem waiting_answers {kind : WaitKind} {cmd : Instr} {w : Waiting} (inv : s.Inv)
    (hw : waitingOf kind cmd = some w) : Answers (w.post s) ∧ ∀ e, Answers (w.retry e s) := by
  rcases waitingOf_eq_some hw with ⟨data, -, -, rfl⟩ | ⟨-, -, rfl⟩ | ⟨-, -, rfl⟩ | ⟨addr, -, -, rfl⟩ |
    ⟨addr, count, -, -, rfl⟩ | ⟨-, -, rfl⟩
  · exact ⟨(RingBuffer.store_answers inv.uart.txb data).bind fun _ => answers_ok _,
      fun e => answers_ite (fun _ => answers_ok _) fun _ => replayDre_answers inv⟩
  · exact ⟨answers_ok _, fun e => answers_ite (fun _ => answers_ok _) fun _ => replayDre_answers inv⟩
  · exact ⟨answers_ok _, fun _ => answers_ok _⟩
  · exact ⟨answers_ite (fun _ => answers_ok _) fun _ => answers_ok _, twiRetry_answers inv⟩
  · exact ⟨answers_ite (fun _ => answers_ok _) fun _ => answers_ite (fun _ => answers_ok _) fun _ => answers_ok _,
      twiRetry_answers inv⟩
  · exact ⟨answers_ok _, twiRetry_answers inv⟩

theorem issue_answers {kind : WaitKind} {cmd : Instr} {w : Waiting} (inv : s.Inv)
    (hw : waitingOf kind cmd = some w) : Answers (w.issue cmd s) := by
  obtain ⟨post, retry⟩ := waiting_answers inv hw
  exact answers_ite (fun _ => post) fun _ => (retry s.ie).bind fun _ => answers_ok _

theorem poll_answers {kind : WaitKind} {cmd : Instr} {w : Waiting} (inv : s.Inv)
    (hw : waitingOf kind cmd = some w) (e : Bool) : Answers (w.poll e s) := by
  obtain ⟨post, retry⟩ := waiting_answers inv hw
  exact answers_ite (fun _ => post.bind fun _ => answers_ok _) fun _ => retry e

/-! ### Moves -/

/-- A move that neither faults nor finds a wait that is not its command's (log 5, log 9). -/
structure Proper (out : Host.Outcome State Fault Refusal) : Prop where
  fault : ∀ f, out ≠ .fault f
  mismatch : out ≠ .refused .waitMismatch

theorem toOutcome_proper {r : Except Fault State} (h : Answers r) : Proper (toOutcome r) := by
  obtain ⟨t, rfl⟩ := h
  exact ⟨nofun, nofun⟩

theorem hostCommand_proper {body : State → Except Fault State} (h : Answers (body s)) :
    Proper (hostCommand body s) := by
  rw [hostCommand]
  split
  · exact toOutcome_proper h
  · exact ⟨nofun, nofun⟩

theorem exec_stimulus_proper {i : Instr} (hi : i.origin ≠ .host) : Proper (exec i s) := by
  obtain ⟨enabled, t, run⟩ := exec_of_stimulus hi s
  rw [run]
  cases enabled <;> exact ⟨nofun, nofun⟩

theorem ifTwiBegun_answers {body : State → Except Fault State} (h : Answers (body s)) :
    Answers (ifTwiBegun body s) :=
  answers_ite (fun _ => h) fun _ => answers_ok _

/-- Every instruction is a proper move: the commands that read or write a memory, those that wait, and the rest. -/
theorem exec_proper (inv : s.Inv) (i : Instr) : Proper (exec i s) := by
  by_cases host : i.origin = .host
  case neg => exact exec_stimulus_proper host
  unfold exec
  cases i with
  | evRxByte _ | evRxSpurious | evTxShiftDone | evCts _ => cases host
  | evTwiAck | evTwiNack | evTwiRxbyte _ | evTwiArblost | evTwiBuserr | evTwiBusIdle => cases host
  | sysCli | sysSei | uartAvailable =>
    refine hostCommand_proper ?_
    exact answers_ok _
  | twiFlush | twiReady | twiResult | twiWrerr =>
    refine hostCommand_proper ?_
    exact answers_ok _
  | uartBegin frame baud =>
    refine hostCommand_proper ?_
    split <;> exact answers_ok _
  | uartEnd =>
    refine hostCommand_proper ?_
    exact issue_answers (kind := .uEnd) inv rfl
  | uartFlush =>
    refine hostCommand_proper ?_
    exact issue_answers (kind := .uFlush) inv rfl
  | uartWrite data =>
    refine hostCommand_proper ?_
    exact answers_ite (fun _ => issue_answers (kind := .uWrite) inv rfl) fun _ => answers_ok _
  | uartPeek =>
    refine hostCommand_proper ?_
    exact Answers.bind ⟨_, RingBuffer.front_eq inv.uart.rxb⟩ fun _ => answers_ok _
  | uartRead =>
    refine hostCommand_proper ?_
    exact answers_ite (fun _ => answers_ok _) fun _ =>
      (RingBuffer.take_answers inv.uart.rxb).bind fun _ => answers_ok _
  | twiBegin own speed cap =>
    refine hostCommand_proper ?_
    exact answers_ite (fun _ => answers_ok _) fun _ => answers_ite (fun _ => answers_ok _) fun _ =>
      answers_ite (fun _ => answers_ok _) fun _ => answers_ite (fun _ => answers_ok _) fun _ => answers_ok _
  | twiBeginTx addr =>
    refine hostCommand_proper ?_
    exact ifTwiBegun_answers (issue_answers (kind := .tBeginTx) inv rfl)
  | twiRequest addr count =>
    refine hostCommand_proper ?_
    exact ifTwiBegun_answers (issue_answers (kind := .tRequest) inv rfl)
  | twiAvailable =>
    refine hostCommand_proper ?_
    exact ifTwiBegun_answers (issue_answers (kind := .tAvailable) inv rfl)
  | twiWrite data =>
    refine hostCommand_proper ?_
    exact ifTwiBegun_answers (answers_ite (fun _ => (TwiBuffer.put_answers inv.twi.sendbuf data).bind fun _ =>
      answers_ite (fun _ => answers_ok _) fun _ => answers_ok _) fun _ => answers_ok _)
  | twiEndTx count =>
    refine hostCommand_proper ?_
    exact ifTwiBegun_answers (answers_ite (fun _ => answers_ok _) fun _ => answers_ite (fun _ => answers_ok _)
      fun _ => answers_ite (fun _ => answers_ok _) fun _ => answers_ok _)
  | twiRead =>
    refine hostCommand_proper ?_
    exact ifTwiBegun_answers ((TwiBuffer.get_answers inv.twi.recvbuf).bind fun _ => answers_ok _)
  | twiPeek =>
    refine hostCommand_proper ?_
    exact ifTwiBegun_answers (Answers.bind ⟨_, TwiBuffer.peekB_eq inv.twi.recvbuf⟩ fun _ => answers_ok _)

theorem takeWord_proper (inv : s.Inv) (o : Origin) (w : Word) : Proper (takeWord o w s) := by
  cases d : decode o w with
  | ok i =>
    rw [takeWord_of_decode d]
    exact exec_proper inv i
  | error e =>
    cases o with
    | host =>
      simp only [takeWord, issueHost, d]
      exact hostCommand_proper (answers_ok _)
    | line | bus =>
      simp only [takeWord, takeStimulus, d]
      exact ⟨nofun, nofun⟩

theorem pollHost_proper (inv : s.Inv) : Proper (pollHost s) := by
  unfold pollHost
  split
  · exact ⟨nofun, nofun⟩
  · next kind e cmd wait =>
    obtain ⟨w, hw⟩ := Option.isSome_iff_exists.1 (inv.host.of_wait wait).1
    rw [hw]
    exact toOutcome_proper (poll_answers inv hw e)

theorem dispatch_proper (inv : s.Inv) (src : IrqSource) : Proper (dispatch src s) := by
  unfold dispatch
  split
  · exact toOutcome_proper (runHandler_answers inv src)
  · exact ⟨nofun, nofun⟩

theorem takeMove_proper (inv : s.Inv) (m : Move) : Proper (takeMove m s) := by
  cases m with
  | word o w => exact takeWord_proper inv o w
  | poll => exact pollHost_proper inv
  | dispatch src => exact dispatch_proper inv src

/-- Settles O55: a step is a move on the state without that move scheduled, and every move is proper. -/
theorem noStepFaultsFromInvariant : Obligations.NoStepFaultsFromInvariant := by
  intro s inv
  have proper : Proper (step s) := by
    cases sched : s.sched with
    | nil =>
      rw [step_of_no_sched sched]
      exact ⟨nofun, nofun⟩
    | cons m rest =>
      rw [step_of_sched sched]
      exact takeMove_proper (inv.withSched rest) m
  exact ⟨proper.fault, proper.mismatch⟩

end Sys2Proof.Machine
end

section
/-! PROOFS. What the two kinds of byte buffer come to (20_memory.md R66 to R78): a ring is a bounded queue, and a
TWI buffer gives after a flip the bytes put into it. -/

namespace Sys2Proof.Machine

variable {id : MemId} {n cap : Nat} {rb : RingBuffer} {tb : TwiBuffer}

/-! ### Rings -/

/-- `Take` on a legal ring answers the oldest byte and removes it (R70). -/
theorem RingBuffer.take_of_wf (w : rb.Wf id n) :
    ∃ rb', rb.take id n = .ok ((rb.contents id n).head?, rb') ∧ rb'.Wf id n ∧
      rb'.contents id n = (rb.contents id n).tail := by
  cases e : rb.empty with
  | true => exact ⟨rb, by rw [contents_of_empty e]; exact take_of_empty e, w, by rw [contents_of_empty e]; rfl⟩
  | false =>
    have taken := take_of_some (id := id) e w.tail_lt
    refine ⟨_, ?_, take_wf w taken, ?_⟩
    · rw [taken, contents_eq_cons w e]; rfl
    · rw [contents_eq_cons w e]; rfl

theorem RingBuffer.length_contents_le (w : rb.Wf id n) : (rb.contents id n).length ≤ n - 1 := by
  rw [length_contents]
  exact w.occ_le

/-- Appending a byte and cutting at the capacity is the queue's store, which drops the newest byte (R69). -/
theorem take_append_singleton {α : Type} {k : Nat} {q : List α} (le : q.length ≤ k) (b : α) :
    (q ++ [b]).take k = if q.length < k then q ++ [b] else q := by
  split
  · next lt => exact List.take_of_length_le (by rw [List.length_append, List.length_singleton]; exact lt)
  · next full => exact List.take_left' (by omega)

/-- Every operation sequence does to a legal ring what it does to the bounded queue of its contents. -/
theorem RingBuffer.runOps_refines (w : rb.Wf id n) (ops : List RingOp) :
    ∃ rb', rb.runOps id n ops = .ok ((queueOps (n - 1) (rb.contents id n) ops).1, rb') ∧
      rb'.Wf id n ∧ rb'.contents id n = (queueOps (n - 1) (rb.contents id n) ops).2 := by
  induction ops generalizing rb with
  | nil => exact ⟨rb, rfl, w, rfl⟩
  | cons op ops ih =>
    cases op with
    | store b =>
      obtain ⟨rb₁, stored, w₁, c₁⟩ := store_of_wf w b
      rw [take_append_singleton (length_contents_le w)] at c₁
      obtain ⟨rb₂, run, w₂, c₂⟩ := ih w₁
      rw [c₁] at run c₂
      refine ⟨rb₂, ?_, w₂, c₂⟩
      rw [runOps, stored]
      exact run
    | take =>
      obtain ⟨rb₁, taken, w₁, c₁⟩ := take_of_wf w
      obtain ⟨rb₂, run, w₂, c₂⟩ := ih w₁
      rw [c₁] at run c₂
      refine ⟨rb₂, ?_, w₂, c₂⟩
      rw [runOps, taken, ok_bind]
      exact bind_eq_ok.2 ⟨_, run, rfl⟩

/-- Settles O48: the refinement of `RingBuffer.runOps_refines`, whose ring stays legal. -/
theorem ringRefinesBoundedQueue : Obligations.RingRefinesBoundedQueue := by
  intro id n rb ops w
  obtain ⟨rb', run, w', contents⟩ := RingBuffer.runOps_refines w ops
  exact ⟨rb', run, w', contents, rb'.length_contents id n, w'.occ_le⟩

/-! ### TWI buffers -/

/-- The bytes put so far into a filling buffer, as a flip shows them (R77, R78). -/
theorem TwiBuffer.unread_flip_of_fill (fill : tb.mode = .fill) :
    tb.flip.unread id = (List.range tb.pos).map fun k => tb.data.byteAt id tb.draw k := by
  rw [flip_of_fill fill]
  simp [unread, remaining]

/-- A byte put into a filling buffer comes after those put before (R75). -/
theorem TwiBuffer.unread_flip_put (fill : tb.mode = .fill) (w : tb.data.wf id cap = true) (b : Byte) :
    TwiBuffer.unread id (TwiBuffer.flip { tb with data := tb.data.put id tb.pos b, pos := tb.pos + 1 }) =
      tb.flip.unread id ++ [b] := by
  rw [unread_flip_of_fill fill, unread_flip_of_fill (by exact fill), List.range_succ, List.map_append]
  congr 1
  · apply List.map_congr_left
    intro k inside
    have before : k ≠ tb.pos := (List.mem_range.1 inside).ne
    exact (Memory.byteAt_put w tb.draw tb.pos b k).trans (if_neg before)
  · exact congrArg (fun x => [x]) ((Memory.byteAt_put w tb.draw tb.pos b tb.pos).trans (if_pos rfl))

/-- Putting the bytes of a list one by one into a filling buffer with room for them. -/
theorem TwiBuffer.puts_of_room (w : tb.Wf id cap) (fill : tb.mode = .fill) (bs : List Byte)
    (room : tb.pos + bs.length ≤ cap) :
    ∃ filled, bs.foldlM (fun b x => (fun r => r.2) <$> TwiBuffer.put id cap b x) tb = .ok filled ∧
      filled.Wf id cap ∧ filled.mode = .fill ∧ filled.pos = tb.pos + bs.length ∧
      filled.flip.unread id = tb.flip.unread id ++ bs := by
  induction bs generalizing tb with
  | nil => exact ⟨tb, rfl, w, fill, rfl, (List.append_nil _).symm⟩
  | cons b bs ih =>
    rw [List.length_cons] at room
    have put := put_of_room w fill (by rw [w.fill_lim fill]; omega) b
    obtain ⟨filled, run, w', fill', pos, shown⟩ := ih (put_wf w put) fill (by simp only; omega)
    refine ⟨filled, ?_, w', fill', ?_, ?_⟩
    · rw [List.foldlM_cons, put]
      exact run
    · rw [pos, List.length_cons, Nat.add_right_comm, Nat.add_assoc]
    · rw [shown, unread_flip_put fill w.data_wf, List.append_assoc, List.singleton_append]

/-- `Get` on a legal buffer answers the first unread byte and removes it (R76). -/
theorem TwiBuffer.get_of_wf (w : tb.Wf id cap) :
    ∃ tb', tb.get id cap = .ok ((tb.unread id).head?, tb') ∧ tb'.Wf id cap ∧ tb'.unread id = (tb.unread id).tail := by
  by_cases more : tb.mode = .drain ∧ tb.pos < tb.lim
  · have got := get_of_some w more.1 more.2
    have unread := unread_eq_cons (id := id) (remaining_pos_iff.2 more)
    exact ⟨_, by rw [got, unread]; rfl, get_wf w got, by rw [unread]; rfl⟩
  · have unread := unread_of_none (id := id) (mt remaining_pos_iff.1 more)
    exact ⟨tb, by rw [get_of_none more, unread]; rfl, w, by rw [unread]; rfl⟩

/-- Settles O50: `TwiBuffer.puts_of_room` from the cleared buffer, which shows no byte, and `TwiBuffer.get_of_wf`. -/
theorem flipBufferGivesBytesInOrder : Obligations.FlipBufferGivesBytesInOrder := by
  refine ⟨fun id cap tb bs w le => ?_, fun id cap tb w => TwiBuffer.get_of_wf w⟩
  obtain ⟨filled, run, w', fill, pos, shown⟩ :=
    TwiBuffer.puts_of_room (TwiBuffer.clear_wf w) rfl bs (by rw [TwiBuffer.clear_pos]; omega)
  rw [TwiBuffer.clear_pos, Nat.zero_add] at pos
  refine ⟨filled, run, w', pos, TwiBuffer.remaining_of_fill fill, ?_, ?_, fun full x => ?_⟩
  · rw [shown, TwiBuffer.unread_flip_of_fill rfl]
    rfl
  · rw [TwiBuffer.flip_of_fill fill]
    exact pos
  · refine TwiBuffer.put_of_no_room (fun room => ?_) x
    rw [w'.fill_lim fill, pos, full] at room
    exact absurd room.2 (Nat.lt_irrefl cap)

end Sys2Proof.Machine
end

section
/-! PROOFS. The byte paths of the UART over finite runs (42_uart_events.md R160, R161, 70_reset_and_hazards.md R263):
what each move takes in and gives out, and the sum of it along a run. -/

namespace Sys2Proof.Machine

variable {m : Move} {ms : List Move} {s t : State} {u : Uart}

/-! ### Finite runs -/

/-- The first move of a run, and the run from there (R85). -/
theorem runMoves_cons (h : runMoves (m :: ms) s = .next t) : ∃ v, takeMove m s = .next v ∧ runMoves ms v = .next t := by
  rw [runMoves] at h
  split at h
  · next v move => exact ⟨v, move, h⟩
  · cases h
  · cases h

theorem alongRun_cons (f : Move → State → State → List Byte) (move : takeMove m s = .next t) :
    alongRun f (m :: ms) s = f m s t ++ alongRun f ms t := by
  simp only [alongRun, move]

theorem alongRun_nothing (ms : List Move) (s : State) : alongRun (fun _ _ _ => []) ms s = [] := by
  induction ms generalizing s with
  | nil => rfl
  | cons m ms ih =>
    rw [alongRun]
    split
    · exact ih _
    · rfl
    · rfl

/-- What every move of a list keeps, a run of it keeps. -/
theorem runMoves_keeps {P : State → Prop} (step : ∀ m ∈ ms, ∀ s t, P s → takeMove m s = .next t → P t) (start : P s)
    (run : runMoves ms s = .next t) : P t := by
  induction ms generalizing s with
  | nil =>
    cases run
    exact start
  | cons m ms ih =>
    obtain ⟨v, move, rest⟩ := runMoves_cons run
    rw [List.forall_mem_cons] at step
    exact ih step.2 (step.1 s v start move) rest

/-- A path whose bytes every move conserves: what it held and took in is what it gave out and holds. -/
theorem runMoves_conserves {P : State → Prop} {path : State → List Byte}
    {takes gives : Move → State → State → List Byte}
    (step : ∀ m ∈ ms, ∀ s t, P s → takeMove m s = .next t →
      P t ∧ path s ++ takes m s t = gives m s t ++ path t)
    (start : P s) (run : runMoves ms s = .next t) :
    path s ++ alongRun takes ms s = alongRun gives ms s ++ path t := by
  induction ms generalizing s with
  | nil =>
    cases run
    exact List.append_nil _
  | cons m ms ih =>
    obtain ⟨v, move, rest⟩ := runMoves_cons run
    rw [List.forall_mem_cons] at step
    obtain ⟨kept, conserved⟩ := step.1 s v start move
    calc path s ++ alongRun takes (m :: ms) s
      _ = (path s ++ takes m s v) ++ alongRun takes ms v := by rw [alongRun_cons _ move, List.append_assoc]
      _ = gives m s v ++ (path v ++ alongRun takes ms v) := by rw [conserved, List.append_assoc]
      _ = gives m s v ++ alongRun gives ms v ++ path t := by rw [ih step.2 kept rest, List.append_assoc]
      _ = alongRun gives (m :: ms) s ++ path t := by rw [alongRun_cons _ move]

/-! ### Moves that keep the channel -/

/-- The move neither begins nor ends the channel (R160, R161). -/
def Move.KeepsChannel (m : Move) : Prop :=
  m.instr ≠ some .uartEnd ∧ ∀ frame baud, m.instr ≠ some (.uartBegin frame baud)

/-- Only `UART_END` makes the host wait to end the channel (R128). -/
theorem takeMove_notEnding (h : takeMove m s = .next t) (old : s.notEnding) (keeps : m.KeepsChannel) : t.notEnding := by
  intro e cmd ending
  cases takeMove_hostStep h with
  | ends idle => cases idle.symm.trans ending
  | stays same _ => exact old e cmd (same.symm.trans ending)
  | waits _ issue may wait _ =>
    cases wait.symm.trans ending
    cases may
    exact keeps.1 issue

theorem State.notEnding.not_polls {cmd : Instr} (h : s.notEnding) : ¬ m.Polls s .uEnd cmd :=
  fun ⟨_, e, wait⟩ => h e cmd wait

/-! ### The receive path -/

theorem RingBuffer.eq_of_fields {a b : RingBuffer} (storage : a.storage = b.storage) (head : a.head = b.head)
    (tail : a.tail = b.tail) : a = b := by
  cases a
  cases b
  cases storage
  cases head
  cases tail
  rfl

/-- In a run that keeps the channel, the receive handler and `UART_READ` alone write the RX ring (R59). -/
theorem takeMove_rxb_of_keeps (h : takeMove m s = .next t) (ending : s.notEnding) (keeps : m.KeepsChannel)
    (rx : m ≠ .dispatch .uartRx) (read : m.instr ≠ some .uartRead) : t.uart.rxb = s.uart.rxb := by
  rcases takeMove_uart h with same | effect
  · rw [same]
  have noBegin : ¬ ∃ frame baud, m.instr = some (.uartBegin frame baud) := fun ⟨frame, baud, issue⟩ =>
    keeps.2 frame baud issue
  obtain ⟨storage, head, tail⟩ := effect.rxb
  refine RingBuffer.eq_of_fields (storage.resolve_right rx) ((head.resolve_right fun cause => ?_))
    (tail.resolve_right fun cause => ?_)
  · exact cause.elim rx noBegin
  · rcases cause with issue | issue | ⟨-, e, cmd, wait⟩ | begins
    · exact read issue
    · exact keeps.1 issue
    · exact ending e cmd wait
    · exact noBegin begins

/-- What a run of the receive handler does to the contents of the RX ring (R156). -/
theorem takeMove_uartRx_contents (h : takeMove (.dispatch .uartRx) s = .next t)
    (wf : s.uart.rxb.Wf .rxb s.cfg.nRx) :
    t.uart.rxb.Wf .rxb t.cfg.nRx ∧ t.uart.rxb.contents .rxb t.cfg.nRx =
      s.uart.rxb.contents .rxb s.cfg.nRx ++ keptBy (.dispatch .uartRx) s t := by
  obtain ⟨-, -, run⟩ := dispatch_eq_next h
  obtain ⟨u, handled, ran⟩ := bind_eq_ok.1 run
  cases ran
  obtain ⟨rb, rfl, ⟨noByte, rfl⟩ | ⟨byte, store⟩⟩ := isrUartRx_eq_ok handled
  · exact ⟨wf, by simp [keptBy, noByte]⟩
  · refine ⟨RingBuffer.store_wf wf store, ?_⟩
    rcases RingBuffer.store_eq_ok store with ⟨full, rfl⟩ | ⟨room, -, rfl⟩
    · simp [keptBy, full]
    · simpa [keptBy, byte, room] using RingBuffer.contents_append wf room s.uart.udrRx

theorem keptBy_of_ne (ne : m ≠ .dispatch .uartRx) : keptBy m s t = [] := by
  unfold keptBy
  split
  · exact absurd rfl ne
  all_goals rfl

theorem readBy_of_ne (ne : m.instr ≠ some .uartRead) : readBy m s t = [] :=
  if_neg (by simp [ne])

/-- A byte's response is read back from its low bits (R110). -/
theorem setWidth_respByte (b : Byte) : (respByte b).setWidth 8 = b := by
  rw [respByte, BitVec.setWidth_setWidth_of_le b (by decide), BitVec.setWidth_eq]

/-- What `UART_READ` answers and leaves (R131). -/
theorem execUartRead_contents (h : exec .uartRead s = .next t) (wf : s.uart.rxb.Wf .rxb s.cfg.nRx) :
    t.resp = respOption (s.uart.rxb.contents .rxb s.cfg.nRx).head? ∧
      t.uart.rxb.contents .rxb t.cfg.nRx = (s.uart.rxb.contents .rxb s.cfg.nRx).tail := by
  obtain ⟨-, ⟨drained, rfl⟩ | ⟨-, b, rb, take, rfl⟩⟩ := execUartRead_next h
  · rw [RingBuffer.contents_of_empty drained]
    exact ⟨rfl, RingBuffer.contents_of_empty drained⟩
  · obtain ⟨rb', take', -, contents⟩ := RingBuffer.take_of_wf wf
    cases take.symm.trans take'
    exact ⟨rfl, contents⟩

/-- One move of the receive path: the bytes unread and kept are those given and still unread. -/
theorem takeMove_rxPath (h : takeMove m s = .next t) (wf : s.uart.rxb.Wf .rxb s.cfg.nRx) (ending : s.notEnding)
    (keeps : m.KeepsChannel) :
    s.uart.rxb.contents .rxb s.cfg.nRx ++ keptBy m s t = readBy m s t ++ t.uart.rxb.contents .rxb t.cfg.nRx := by
  by_cases rx : m = .dispatch .uartRx
  · obtain rfl := rx
    rw [readBy_of_ne (by simp), List.nil_append]
    exact (takeMove_uartRx_contents h wf).2.symm
  rw [keptBy_of_ne rx, List.append_nil]
  by_cases read : m.instr = some .uartRead
  · obtain ⟨resp, contents⟩ := execUartRead_contents ((takeMove_of_instr read s).symm.trans h) wf
    rw [contents, readBy]
    cases e : s.uart.rxb.empty with
    | true => simp [RingBuffer.contents_of_empty e]
    | false =>
      rw [RingBuffer.contents_eq_cons wf e] at resp ⊢
      simp [read, resp, respOption, setWidth_respByte]
  · rw [readBy_of_ne read, List.nil_append, takeMove_rxb_of_keeps h ending keeps rx read, takeMove_cfg h]

/-- Settles O60: the sum of `takeMove_rxPath` along the run, whose states keep the invariant. -/
theorem receivePathIsFifo : Obligations.ReceivePathIsFifo := by
  intro ms s t inv ending keeps run
  refine runMoves_conserves (P := fun s => s.Inv ∧ s.notEnding)
    (path := fun s => s.uart.rxb.contents .rxb s.cfg.nRx) (fun m mem s t old move => ?_) ⟨inv, ending⟩ run
  exact ⟨⟨takeMove_inv old.1 move, takeMove_notEnding move old.2 (keeps m mem)⟩,
    takeMove_rxPath move old.1.uart.rxb old.2 (keeps m mem)⟩

/-! ### Peek, then read -/

/-- The RX ring is legal, `b` is its oldest byte, and the host is not ending the channel. -/
structure State.ShowsByte (b : Byte) (s : State) : Prop where
  wf : s.uart.rxb.Wf .rxb s.cfg.nRx
  oldest : (s.uart.rxb.contents .rxb s.cfg.nRx).head? = some b
  ending : s.notEnding

/-- Without `UART_READ` the oldest byte stays: the handler appends behind it. -/
theorem State.ShowsByte.step {b : Byte} (old : s.ShowsByte b) (h : takeMove m s = .next t) (keeps : m.KeepsChannel)
    (read : m.instr ≠ some .uartRead) : t.ShowsByte b := by
  have ending := takeMove_notEnding h old.ending keeps
  by_cases rx : m = .dispatch .uartRx
  · obtain rfl := rx
    obtain ⟨wf, contents⟩ := takeMove_uartRx_contents h old.wf
    exact ⟨wf, by rw [contents, List.head?_append, old.oldest]; rfl, ending⟩
  · have rxb := takeMove_rxb_of_keeps h old.ending keeps rx read
    have cfg := takeMove_cfg h
    exact ⟨by rw [rxb, cfg]; exact old.wf, by rw [rxb, cfg]; exact old.oldest, ending⟩

/-- Settles O58: the peeked byte is the oldest, stays so, and is then read. -/
theorem peekThenReadSameByte : Obligations.PeekThenReadSameByte := by
  intro ms s s₁ s₂ t wf unread peek keeps noRead run read
  obtain ⟨idle, b, front, rfl⟩ := execUartPeek_next peek
  obtain rfl := Except.ok.inj ((RingBuffer.front_eq wf).symm.trans front)
  have oldest := congrArg List.head? (RingBuffer.contents_eq_cons wf unread)
  have start : (s.respond (respOption (s.uart.rxb.contents .rxb s.cfg.nRx).head?)).ShowsByte
      (s.uart.rxb.storage.byteAt .rxb 0 s.uart.rxb.tail) :=
    ⟨wf, oldest, fun e cmd wait => by cases idle.symm.trans wait⟩
  have shows := runMoves_keeps (fun m mem s t old move => old.step move (keeps m mem) (noRead m mem)) start run
  rw [(execUartRead_contents read shows.wf).1, shows.oldest, State.respond_resp, oldest]
  rfl

/-! ### The transmit path -/

theorem writtenBy_of_full (full : s.uart.txb.full s.cfg.nTx = true) : writtenBy m s t = [] := if_pos full

theorem writtenBy_of_runsWrite {data : Byte} (room : s.uart.txb.full s.cfg.nTx = false) (write : m.RunsWrite s data) :
    writtenBy m s t = [data] := by
  unfold writtenBy
  rw [room]
  rcases write with ⟨issue, begun⟩ | ⟨rfl, e, wait⟩
  · simp [issue, begun]
  · simp [wait]

theorem writtenBy_of_not_runsWrite (quiet : ∀ data, ¬ m.RunsWrite s data) : writtenBy m s t = [] := by
  unfold writtenBy
  split
  · rfl
  · split
    · next data issue =>
      split
      · next begun => exact absurd (.inl ⟨issue, begun⟩) (quiet data)
      · rfl
    · next e data wait _ => exact absurd (.inr ⟨rfl, e, wait⟩) (quiet data)
    · rfl

/-- A write with room in the ring stores its byte (R132). -/
theorem takeMove_of_runsWrite {data : Byte} (h : takeMove m s = .next t) (room : s.uart.txb.full s.cfg.nTx = false)
    (write : m.RunsWrite s data) : ∃ rb, s.uart.txb.store .txb s.cfg.nTx data = .ok rb ∧
      t.uart = { s.uart with txb := rb, transmitting := true, rxcie := true, dreie := true, txc := false } := by
  have ready (e : Bool) : (uartWriteWaiting data).ready e s = true := by simp [uartWriteWaiting, room]
  rcases write with ⟨issue, begun⟩ | ⟨rfl, e, wait⟩
  · rw [takeMove_of_instr issue] at h
    obtain ⟨-, ⟨closed, -⟩ | ⟨-, -, post⟩ | ⟨-, full, -⟩⟩ := execUartWrite_next h
    · exact elim_of_true begun closed
    · obtain ⟨rb, store, rfl⟩ := uartWritePost_eq_ok post
      exact ⟨rb, store, rfl⟩
    · exact elim_of_true full room
  · obtain ⟨kind, e', cmd, w, wait', hw, poll⟩ := pollHost_eq_next h
    cases wait.symm.trans wait'
    cases hw
    rcases Waiting.poll_eq_ok poll with ⟨-, v, post, rfl⟩ | ⟨notReady, -⟩
    · obtain ⟨rb, store, rfl⟩ := uartWritePost_eq_ok post
      exact ⟨rb, store, rfl⟩
    · exact elim_of_true (ready e) notReady

/-- A byte written to the hardware goes behind those in it (R154). -/
theorem Uart.hwTxWrite_registers (on : u.txen = true) (free : u.txhold = none) (b : Byte) :
    (u.hwTxWrite b).txshift.toList ++ (u.hwTxWrite b).txhold.toList = u.txshift.toList ++ [b] ∧
      (u.hwTxWrite b).uartOut = u.uartOut ∧ (u.hwTxWrite b).txb = u.txb := by
  cases shift : u.txshift with
  | none =>
    rw [Uart.hwTxWrite_of_free on shift, free]
    exact ⟨rfl, rfl, rfl⟩
  | some x =>
    rw [Uart.hwTxWrite_of_shifting on (by simp [shift]), shift]
    exact ⟨rfl, rfl, rfl⟩

/-- A byte that the handler moves goes behind those in the hardware (R157, R161). -/
theorem isrUartDre_txPath {p : Params} {v : Uart} (run : isrUartDre p u = .ok v) (wf : u.txb.Wf .txb p.nTx)
    (on : u.txen = true) (free : u.txhold = none) : v.txPath p = u.txPath p := by
  rcases isrUartDre_eq_ok run with ⟨-, rfl | ⟨-, -, rfl⟩⟩ | ⟨-, held, -, rfl⟩
  · rfl
  · rfl
  · obtain ⟨registers, out, txb⟩ := Uart.hwTxWrite_registers
      (u := { u with txb := { u.txb with tail := (u.txb.tail + 1) % p.nTx } }) on free
      (u.txb.storage.byteAt .txb 0 u.txb.tail)
    rw [Uart.txPath, List.append_assoc _ (Option.toList _) (Option.toList _), registers, out, txb, Uart.txPath, free,
      RingBuffer.contents_eq_cons wf held]
    simp

/-- Only a completed write, and the begin and the end of the channel, change the transmit path. -/
theorem Uart.Effect.txPath (h : Uart.Effect m s u) (inv : s.Inv) (ending : s.notEnding) (keeps : m.KeepsChannel)
    (noWrite : ∀ data, m.RunsWrite s data → s.uart.txb.full s.cfg.nTx = true) :
    u.txPath s.cfg = s.uart.txPath s.cfg := by
  cases h with
  | begins issue _ => exact absurd issue (keeps.2 _ _)
  | closes cause => exact absurd cause (not_or.2 ⟨keeps.1, ending.not_polls⟩)
  | writes cause room _ => exact elim_of_true (noWrite _ cause) room
  | receives _ _ run =>
    obtain ⟨rb, rfl, -⟩ := isrUartRx_eq_ok run
    rfl
  | transmits cause free run =>
    have on : s.uart.txen = true := inv.uart.enables.2.1.trans (cause.begun inv)
    exact isrUartDre_txPath run inv.uart.txb on free
  | callsBack _ =>
    obtain ⟨_, _, called⟩ := isrUartCts_writes s.uart
    exact called ▸ rfl
  | arrives data =>
    obtain ⟨_, _, arrived⟩ := s.uart.rxArrive_writes data
    exact arrived ▸ rfl
  | shifts => simp [Uart.txPath, Uart.shiftDone]
  | _ => rfl

/-- One move of the transmit path: a completed write puts its byte at the end. -/
theorem takeMove_txPath (h : takeMove m s = .next t) (inv : s.Inv) (ending : s.notEnding) (keeps : m.KeepsChannel) :
    s.uart.txPath s.cfg ++ writtenBy m s t = t.uart.txPath t.cfg := by
  rw [takeMove_cfg h]
  by_cases stores : s.uart.txb.full s.cfg.nTx = false ∧ ∃ data, m.RunsWrite s data
  · obtain ⟨room, data, write⟩ := stores
    obtain ⟨rb, store, written⟩ := takeMove_of_runsWrite h room write
    rcases RingBuffer.store_eq_ok store with ⟨full, -⟩ | ⟨-, -, rfl⟩
    · exact elim_of_true full room
    · have contents := RingBuffer.contents_append inv.uart.txb room data
      simp [written, writtenBy_of_runsWrite room write, Uart.txPath, contents]
  · have noWrite (data : Byte) (write : m.RunsWrite s data) : s.uart.txb.full s.cfg.nTx = true :=
      (Bool.not_eq_false _).mp fun room => stores ⟨room, data, write⟩
    have nothing : writtenBy m s t = [] := by
      cases full : s.uart.txb.full s.cfg.nTx with
      | true => exact writtenBy_of_full full
      | false => exact writtenBy_of_not_runsWrite fun data write => elim_of_true (noWrite data write) full
    rw [nothing, List.append_nil]
    rcases takeMove_uart h with same | effect
    · rw [same]
    · exact (effect.txPath inv ending keeps noWrite).symm

/-- Settles O59: the sum of `takeMove_txPath` along the run; the path gives nothing out. -/
theorem transmitPathIsFifo : Obligations.TransmitPathIsFifo := by
  intro ms s t inv ending keeps run
  have conserved := runMoves_conserves (P := fun s => s.Inv ∧ s.notEnding) (path := fun s => s.uart.txPath s.cfg)
    (takes := writtenBy) (gives := fun _ _ _ => []) (fun m mem s t old move =>
      ⟨⟨takeMove_inv old.1 move, takeMove_notEnding move old.2 (keeps m mem)⟩,
        takeMove_txPath move old.1 old.2 (keeps m mem)⟩) ⟨inv, ending⟩ run
  rw [alongRun_nothing, List.nil_append] at conserved
  exact conserved.symm

end Sys2Proof.Machine
end

section
/-! PROOFS. The transaction as a whole (44_twi_events.md R207, 70_reset_and_hazards.md R257, R259): the rows of its
table, what is recorded when the bus reports idle, and the wait that nothing ends. -/

namespace Sys2Proof.Machine

variable {m : Move} {s t : State} {p : Params} {o n : Twi}

/-! ### The table -/

/-- No run of the handler enters `ADDRESS_PENDING` (R202 to R206). -/
theorem isrTwi_tstate (run : isrTwi o = .ok n) : n = o ∨ n.tstate ≠ .addressPending := by
  rcases isrTwi_eq_ok run with ⟨-, rfl⟩ | ⟨-, -, rfl⟩ | ⟨-, -, -, write⟩ | ⟨-, -, -, -, read⟩ | ⟨-, same⟩
  · exact .inr nofun
  · exact .inr nofun
  · rcases twiWriteBranch_eq_ok write with ⟨-, rfl⟩ | ⟨-, -, -, rfl⟩ | ⟨-, -, -, rfl⟩ | ⟨-, -, -, rfl⟩ <;>
      exact .inr nofun
  · obtain ⟨k, -, rfl⟩ := twiReadBranch_eq_ok read
    unfold twiReadNext
    split <;> exact .inr nofun
  · exact .inl same

/-- A transaction starts from rest, on an idle bus, with its address byte (R173, R174, R207). -/
theorem Twi.Effect.start (h : Twi.Effect m s n) (inv : s.twi.Inv s.cfg) (starts : n.tstate = .addressPending)
    (rest : s.twi.tstate ≠ .addressPending) :
    (s.twi.tstate = .idle ∨ s.twi.tstate = .arbLost ∨ s.twi.tstate = .busError) ∧ s.twi.busIdle = true ∧
      n.busIdle = false ∧ n.twiOut = s.twi.twiOut ++ [.start n.sla] ∧ n.tresult = s.twi.tresult := by
  cases h with
  | begins _ _ _ _ _ => cases starts
  | launchesRead free _ _ => exact ⟨inv.phase.idle free, free, rfl, rfl, rfl⟩
  | launchesWrite _ _ free => exact ⟨inv.phase.idle free, free, rfl, rfl, rfl⟩
  | handles run =>
    rcases isrTwi_tstate run with rfl | ne
    · exact absurd starts rest
    · exact absurd starts ne
  | _ => exact absurd starts rest

/-- A flag of the READ branch comes with an expected byte: the branch acknowledges it, or ends the transaction with
the last one (R206). -/
theorem twiReadBranch_row (expected : 0 < o.srs) (run : twiReadBranch o = .ok n) :
    (1 < o.srs ∧ n.tstate = .readingData ∧ n.twiOut = o.twiOut ++ [.ack] ∧ n.tresult = o.tresult) ∨
      (o.srs = 1 ∧ n.tstate = .idle ∧ n.twiOut = o.twiOut ++ [.nackStop] ∧ n.tresult = 1) := by
  obtain ⟨k, keep, rfl⟩ := twiReadBranch_eq_ok run
  rcases twiKeepByte_eq_ok keep with ⟨none, -⟩ | ⟨-, r, -, rfl⟩
  · exact absurd expected none.not_gt
  · unfold twiReadNext
    split
    · next more => exact .inl ⟨Nat.lt_of_sub_pos more, rfl, rfl, rfl⟩
    · next last => exact .inr ⟨by simp only at last; omega, rfl, rfl, rfl⟩

/-- Settles O44: the branches of the handler are the rows, in the states that `Twi.Phase` allows each flag in, and
`Twi.Effect.start` says what enters `ADDRESS_PENDING`. -/
theorem transactionStateMachine : Obligations.TransactionStateMachine := by
  constructor
  · intro s n inv flag run o writing reading inFlight
    have phase := inv.twi.phase
    have error (e : o.arbf = true ∨ o.berf = true) : inFlight := by
      rcases phase.error e with state | state | state | state
      · exact .inl (.inl state)
      · exact .inl (.inr state)
      · exact .inr (.inr (.inl state))
      · exact .inr (.inr (.inr state))
    rcases isrTwi_eq_ok run with ⟨arb, rfl⟩ | ⟨-, err, rfl⟩ | ⟨-, -, wif, write⟩ | ⟨-, -, -, rif, read⟩ | ⟨noFlag, -⟩
    · exact .inr (.inr (.inr (.inr (.inr (.inr (.inl ⟨arb, error (.inl arb), rfl, rfl, rfl⟩))))))
    · exact .inr (.inr (.inr (.inr (.inr (.inr (.inr ⟨err, error (.inr err), rfl, rfl, rfl⟩))))))
    · have acked (noNack : o.nackf = false) : writing := by
        rcases phase.wif wif with state | state | ⟨nack, -⟩
        · exact .inl state
        · exact .inr state
        · exact elim_of_true nack noNack
      rcases twiWriteBranch_eq_ok write with ⟨nack, rfl⟩ | ⟨noNack, more, -, rfl⟩ | ⟨noNack, sent, expected, rfl⟩ |
        ⟨noNack, sent, done, rfl⟩
      · refine .inl ⟨wif, nack, ?_, rfl, rfl, rfl⟩
        rcases phase.wif wif with state | state | ⟨-, state⟩
        · exact .inl (.inl state)
        · exact .inl (.inr state)
        · exact .inr state
      · exact .inr (.inl ⟨wif, noNack, acked noNack, more, rfl, ⟨_, rfl⟩, rfl⟩)
      · refine .inr (.inr (.inl ⟨wif, noNack, acked noNack, sent, expected, rfl, ?_, rfl⟩))
        rw [← slaRepeat_eq]
        rfl
      · exact .inr (.inr (.inr (.inl ⟨wif, noNack, acked noNack, sent, done, rfl, rfl, rfl⟩)))
    · have expected : 0 < o.srs := inv.twi.expecting (.inr (.inr rif))
      rcases twiReadBranch_row expected read with ⟨more, next⟩ | ⟨last, next⟩
      · exact .inr (.inr (.inr (.inr (.inl ⟨rif, phase.rif rif, more, next⟩))))
      · exact .inr (.inr (.inr (.inr (.inr (.inl ⟨rif, phase.rif rif, last, next⟩)))))
    · exact elim_of_true flag noFlag
  · intro m s t inv move starts rest
    rcases takeMove_twi move with same | effect
    · exact absurd (same ▸ starts) rest
    · exact effect.start inv.twi starts rest

/-! ### What is recorded when the bus reports idle -/

/-- Settles O45, by `Twi.Inv.recorded_of_canGoIdle`. -/
theorem readyImpliesRecorded : Obligations.ReadyImpliesRecorded := by
  intro s t inv run
  obtain ⟨can, rfl⟩ := execEvTwiBusIdle_next run
  refine ⟨rfl, rfl, ?_⟩
  exact inv.twi.recorded_of_canGoIdle can

/-! ### The wait that nothing ends -/

theorem Eng.inTransfer_of_canAck {e : Eng} (can : e.canAck = true) : e.inTransfer = true := by
  rcases Eng.canAck_iff.1 can with rfl | rfl <;> rfl

theorem Eng.inTransfer_of_canNack {e : Eng} (can : e.canNack = true) : e.inTransfer = true := by
  rcases Eng.canNack_iff.1 can with rfl | rfl | rfl <;> rfl

theorem Eng.inTransfer_of_canReceive {e : Eng} (can : e.canReceive = true) : e.inTransfer = true := by
  rcases Eng.canReceive_iff.1 can with rfl | rfl <;> rfl

/-- The host waits in `TWI_AVAILABLE` for `k` more bytes, and the controller has nothing under way that could bring
them (R257). -/
structure State.Hung (e : Bool) (k : Nat) (s : State) : Prop where
  wait : s.hstate = .wait .tAvailable e .twiAvailable
  expected : s.twi.srs = k
  eng : s.twi.eng = .none ∨ s.twi.eng = .stop
  quiet : s.twi.anyFlag = false

/-- With no flag set a handler run changes nothing (R202). -/
theorem isrTwi_of_noFlag (noFlag : o.anyFlag = false) (run : isrTwi o = .ok n) : n = o := by
  obtain ⟨wif, rif, arbf, berf⟩ := Twi.anyFlag_eq_false_iff.1 noFlag
  rcases isrTwi_eq_ok run with ⟨arb, -⟩ | ⟨-, err, -⟩ | ⟨-, -, done, -⟩ | ⟨-, -, -, byte, -⟩ | ⟨-, same⟩
  · exact elim_of_true arb arbf
  · exact elim_of_true err berf
  · exact elim_of_true done wif
  · exact elim_of_true byte rif
  · exact same

namespace State.Hung

variable {e : Bool} {k : Nat}

theorem setUart (h : s.Hung e k) (u : Uart) : (s.setUart u).Hung e k := ⟨h.wait, h.expected, h.eng, h.quiet⟩

/-- Running the handler, as a retry or a dispatch, leaves the host hung. -/
theorem setTwi_of_run (h : s.Hung e k) (run : isrTwi s.twi = .ok n) : (s.setTwi n).Hung e k := by
  obtain rfl := isrTwi_of_noFlag h.quiet run
  exact ⟨h.wait, h.expected, h.eng, h.quiet⟩

/-- No transfer is pending for the bus to end (R196 to R200). -/
theorem not_transfer (h : s.Hung e k) : ¬ s.twi.eng.inTransfer = true := by
  rw [Eng.inTransfer_iff]
  rcases h.eng with eng | eng <;> simp [eng]

/-- No stimulus brings a byte or a flag; the bus may report idle. -/
theorem exec_stimulus {i : Instr} (h : s.Hung e k) (hi : i.origin ≠ .host) (run : exec i s = .next t) :
    t.Hung e k := by
  have noTransfer := h.not_transfer
  cases i with
  | evRxByte data =>
    obtain rfl := execEvRxByte_next run
    exact h.setUart _
  | evRxSpurious =>
    obtain ⟨-, rfl⟩ := execEvRxSpurious_next run
    exact h.setUart _
  | evTxShiftDone =>
    obtain ⟨-, rfl⟩ := execEvTxShiftDone_next run
    exact h.setUart _
  | evCts level =>
    obtain ⟨-, -, rfl⟩ := execEvCts_next run
    exact h.setUart _
  | evTwiAck => exact absurd (Eng.inTransfer_of_canAck (execEvTwiAck_next run).1) noTransfer
  | evTwiNack => exact absurd (Eng.inTransfer_of_canNack (execEvTwiNack_next run).1) noTransfer
  | evTwiRxbyte data => exact absurd (Eng.inTransfer_of_canReceive (execEvTwiRxbyte_next run).1) noTransfer
  | evTwiArblost => exact absurd (execEvTwiArblost_next run).1 noTransfer
  | evTwiBuserr => exact absurd (execEvTwiBuserr_next run).1 noTransfer
  | evTwiBusIdle =>
    obtain ⟨-, rfl⟩ := execEvTwiBusIdle_next run
    exact ⟨h.wait, h.expected, .inl rfl, h.quiet⟩
  | _ => exact absurd rfl hi

/-- A poll finds bytes still expected, and retries in vain (R119, R120, R175). -/
theorem pollHost (h : s.Hung e k) (pos : 0 < k) (run : pollHost s = .next t) : t.Hung e k := by
  obtain ⟨kind, e', cmd, w, wait, hw, poll⟩ := pollHost_eq_next run
  cases h.wait.symm.trans wait
  cases hw
  rcases Waiting.poll_eq_ok poll with ⟨ready, -⟩ | ⟨-, retry⟩
  · have none : s.twi.srs = 0 := beq_iff_eq.1 ready
    exact absurd (h.expected.symm.trans none) pos.ne'
  · rcases twiRetry_eq_ok retry with rfl | ⟨n, handled, rfl⟩
    · exact h
    · exact h.setTwi_of_run handled

theorem dispatch {src : IrqSource} (h : s.Hung e k) (run : dispatch src s = .next t) : t.Hung e k := by
  obtain ⟨-, -, handled⟩ := dispatch_eq_next run
  rcases runHandler_eq_ok handled with ⟨u, rfl, -⟩ | ⟨n, rfl, -, twi⟩
  · exact h.setUart u
  · exact h.setTwi_of_run twi

/-- No move ends the wait. -/
theorem takeMove (h : s.Hung e k) (pos : 0 < k) (move : takeMove m s = .next t) : t.Hung e k := by
  have waiting : s.hstate ≠ .idle := by rw [h.wait]; nofun
  rcases takeMove_eq_next move with ⟨o, w, i, rfl, ok, run⟩ | ⟨w, e, -, -, idle, -⟩ | ⟨-, poll⟩ | ⟨src, -, disp⟩
  · exact h.exec_stimulus (origin_of_waiting waiting (Move.instr_of_decode ok) move) run
  · exact absurd idle waiting
  · exact h.pollHost pos poll
  · exact h.dispatch disp

end State.Hung

/-- Settles O46: every move leaves the host hung. -/
theorem availableHangsAfterFailedRead : Obligations.AvailableHangsAfterFailedRead := by
  intro ms s t e wait pos eng quiet run
  have start : s.Hung e s.twi.srs := ⟨wait, rfl, eng, quiet⟩
  have hung : t.Hung e s.twi.srs := runMoves_keeps (fun _ _ _ _ old move => old.takeMove pos move) start run
  exact ⟨hung.wait.trans wait.symm, hung.expected⟩

end Sys2Proof.Machine
end

section
/-! PROOFS. What each agent's words and steps do (40_sys.md R117, 30_encoding.md R102, 60_exceptions.md R229), and the
block right after reset (70_reset_and_hazards.md R245, R246). -/

namespace Sys2Proof.Machine

variable {s t : State}

/-! ### Code values -/

/-- Settles O7: the tables of R104 to R107, code by code. -/
theorem codeTables : Obligations.CodeTables := ⟨rfl, rfl, rfl, rfl, rfl⟩

/-! ### Stimulus words -/

theorem unitField_encode_of_line {i : Instr} (line : i.origin = .line) : unitField (encode i) = 0x8 := by
  cases i with
  | evRxByte _ | evRxSpurious | evTxShiftDone | evCts _ => exact unitField_mkWord _ _ _
  | _ => cases line

theorem unitField_encode_of_bus {i : Instr} (bus : i.origin = .bus) : unitField (encode i) = 0x9 := by
  cases i with
  | evTwiAck | evTwiNack | evTwiRxbyte _ | evTwiArblost | evTwiBuserr | evTwiBusIdle => exact unitField_mkWord _ _ _
  | _ => cases bus

/-- A word of the Line or the Bus that does not decode is refused (R102, log 6). -/
theorem takeWord_of_reserved {o : Origin} {w : Word} {e : DecodeError} (stimulus : o ≠ .host)
    (reserved : decode o w = .error e) : takeWord o w s = .refused .reservedStimulus := by
  cases o with
  | host => exact absurd rfl stimulus
  | line | bus => simp only [takeWord, takeStimulus, reserved]

/-- A word decodes, or it is refused: so a word that no instruction has is refused. -/
theorem takeWord_of_undecodable {o : Origin} {w : Word} (stimulus : o ≠ .host) (no : ∀ i, decode o w ≠ .ok i) :
    takeWord o w s = .refused .reservedStimulus := by
  cases d : decode o w with
  | ok i => exact absurd d (no i)
  | error e => exact takeWord_of_reserved stimulus d

/-- Settles O6: a word that decodes is the word of its instruction, so it names the unit of its issuer. -/
theorem reservedStimulusWordIsRefused : Obligations.ReservedStimulusWordIsRefused := by
  intro o w s stimulus
  refine ⟨fun e => takeWord_of_reserved stimulus, fun i ok => ?_, ?_, ?_⟩
  · have origin := decode_origin ok
    exact ⟨origin, takeWord_of_decode ok s, (exec_stimulus_proper (by rwa [origin])).fault⟩
  · rintro rfl unit
    refine takeWord_of_undecodable stimulus fun i ok => unit ?_
    obtain ⟨-, line, word⟩ := encodeInvertsDecode .line w i ok
    rw [← word, unitField_encode_of_line line]
  · rintro rfl unit
    refine takeWord_of_undecodable stimulus fun i ok => unit ?_
    obtain ⟨-, bus, word⟩ := encodeInvertsDecode .bus w i ok
    rw [← word, unitField_encode_of_bus bus]

/-! ### Steps -/

theorem decode_of_decodeTableWord {nbits w : Nat} {i : Instr} (h : decodeTableWord nbits w = some i) :
    decode (issuer (tableWord nbits w)) (tableWord nbits w) = .ok i := by
  unfold decodeTableWord at h
  split at h
  · next ok =>
    cases h
    exact ok
  · cases h

/-- Settles O8: `step_of_sched` and `step_of_no_sched`, and what the scheduled move is. -/
theorem stepRunsDecodedInstruction : Obligations.StepRunsDecodedInstruction := by
  refine ⟨fun s o w i rest sched ok _ => ?_, fun s rest sched => step_of_sched sched,
    fun s src rest sched => step_of_sched sched, fun s => step_of_no_sched, fun s nbits w i ok => ?_⟩
  · rw [step_of_sched sched, takeMove_word, takeWord_of_decode ok]
  · have sched : (s.withFetchWord nbits w).sched =
        .word (issuer (tableWord nbits w)) (tableWord nbits w) :: s.sched := rfl
    rw [step_of_sched sched, takeMove_word, takeWord_of_decode (decode_of_decodeTableWord ok)]
    rfl

/-- A waiting host issues no command (R117). -/
theorem hostCommand_of_waiting (wait : s.hstate ≠ .idle) (body : State → Except Fault State) :
    hostCommand body s = .refused .hostWaiting := by
  rw [hostCommand]
  split
  · next idle => exact absurd idle wait
  · rfl

/-- Settles O9: every host word, legal or not, runs in the frame of `hostCommand`. -/
theorem waitingHostIssuesNoCommand : Obligations.WaitingHostIssuesNoCommand := by
  refine ⟨fun w s wait => ?_, fun s idle => ?_⟩
  · cases d : decode .host w with
    | ok i =>
      obtain ⟨body, run⟩ := exec_of_host (decode_origin d)
      rw [takeWord_of_decode d, run, hostCommand_of_waiting wait]
    | error e =>
      simp only [takeWord, issueHost, d]
      exact hostCommand_of_waiting wait _
  · simp only [pollHost, idle]

/-! ### Reset -/

theorem RingBuffer.zeroed_wf (id : MemId) {n : Nat} (pos : 0 < n) : RingBuffer.zeroed.Wf id n :=
  RingBuffer.wf_of pos pos (Memory.wf_nil id n)

theorem TwiBuffer.unallocated_wf (id : MemId) : TwiBuffer.unallocated.Wf id 0 :=
  ⟨Nat.le_refl 0, Nat.le_refl 0, fun _ => rfl, Memory.wf_nil id 0⟩

theorem Uart.reset_inv (p : Params) (d : ResetDraws) : (Uart.reset d).Inv p where
  rxb := RingBuffer.zeroed_wf _ (Nat.succ_pos _)
  txb := RingBuffer.zeroed_wf _ (Nat.succ_pos _)
  enables := ⟨rfl, rfl, rfl⟩
  closed _ := ⟨rfl, rfl, rfl⟩
  rxFlags _ := ⟨rfl, rfl⟩
  pipeline _ := rfl
  rts := ⟨nofun, nofun, nofun⟩
  cts := ⟨nofun, nofun⟩
  timing := nofun

theorem Twi.reset_phase (d : ResetDraws) : (Twi.reset d).Phase where
  addrW := nofun
  addrR := nofun
  dataW := nofun
  recv := nofun
  stop := nofun
  wif := nofun
  rif := nofun
  error := fun e => e.elim nofun nofun
  quiet := nofun
  idle := nofun

theorem Twi.reset_inv (p : Params) (d : ResetDraws) : (Twi.reset d).Inv p where
  cap_le := Nat.zero_le _
  sendbuf := TwiBuffer.unallocated_wf _
  recvbuf := TwiBuffer.unallocated_wf _
  srs_le := Nat.le_refl 0
  oneFlag := Twi.oneFlag_of_noFlag rfl
  flagEng := nofun
  composing := nofun
  idle := nofun
  irqen := rfl
  unbegun _ := ⟨rfl, rfl, rfl⟩
  begun := nofun
  expecting := fun e => by rcases e with e | e | e <;> cases e
  room := fun expected => absurd expected (Nat.lt_irrefl 0)
  phase := Twi.reset_phase d
  codes := ⟨.inl rfl, TwiResult.code_le .none⟩

theorem State.resetWith_inv (p : Params) (d : ResetDraws) : (State.resetWith p d).Inv :=
  ⟨Uart.reset_inv p d, Twi.reset_inv p d, State.hostInv_of_idle rfl, Nat.zero_le 3⟩

/-- Settles O53: the reset state is that of the configured parameters and draws. -/
theorem resetMeetsInvariant : Obligations.ResetMeetsInvariant :=
  ⟨State.resetWith_inv _ _, State.resetWith_inv⟩

/-- The only stimuli that are a step right after reset: a byte on the line, and a change of a bound CTS (R246). -/
theorem exec_stimulus_of_reset {p : Params} {d : ResetDraws} {i : Instr} (hi : i.origin ≠ .host)
    (run : exec i (State.resetWith p d) = .next t) :
    (∃ data, i = .evRxByte data) ∨ (p.ctsBound = true ∧ i = .evCts (!d.ctsIn)) := by
  cases i with
  | evRxByte data => exact .inl ⟨data, rfl⟩
  | evCts level =>
    obtain ⟨bound, change, -⟩ := execEvCts_next run
    exact .inr ⟨bound, congrArg Instr.evCts (Bool.eq_not_of_ne change)⟩
  | evRxSpurious => cases (execEvRxSpurious_next run).1
  | evTxShiftDone => cases (execEvTxShiftDone_next run).1
  | evTwiAck => cases (execEvTwiAck_next run).1
  | evTwiNack => cases (execEvTwiNack_next run).1
  | evTwiRxbyte data => cases (execEvTwiRxbyte_next run).1
  | evTwiArblost => cases (execEvTwiArblost_next run).1
  | evTwiBuserr => cases (execEvTwiBuserr_next run).1
  | evTwiBusIdle => cases (execEvTwiBusIdle_next run).1
  | _ => exact absurd rfl hi

/-- Settles O52: with `IE = 0` nothing is dispatched, with `RXEN = 0` a byte is lost, and
`exec_stimulus_of_reset` says which words are steps. -/
theorem initialModeAfterReset : Obligations.InitialModeAfterReset := by
  intro p d s
  refine ⟨rfl, rfl, fun src => ⟨?_, dispatch_of_not_enabled (.inl rfl)⟩, fun data => ?_, fun bound => ?_,
    fun o w t stimulus move => ?_⟩
  · cases src <;> rfl
  · refine ⟨_, exec_evRxByte data s, ?_⟩
    rw [State.setUart_uart, Uart.rxArrive_of_lost (.inl rfl)]
    exact ⟨rfl, rfl⟩
  · exact ⟨_, stimulus_of_enabled ctsChange_iff ⟨bound, Bool.not_ne_self d.ctsIn⟩ _⟩
  · cases decoded : decode o w with
    | error e => cases (takeWord_of_reserved stimulus decoded).symm.trans move
    | ok i =>
      have hi : i.origin ≠ .host := by rwa [decode_origin decoded]
      rw [takeWord_of_decode decoded] at move
      rcases exec_stimulus_of_reset hi move with ⟨data, rfl⟩ | ⟨bound, rfl⟩
      · exact .inl ⟨data, rfl⟩
      · exact .inr ⟨bound, rfl⟩

end Sys2Proof.Machine
end

section
/-! PROOFS. The commands that wait (40_sys.md R118 to R120): the three of the `TWI` unit at issue and at a poll
(43_twi.md R171, R174, R175), the fault before `TWI_BEGIN`, and a write with interrupts off (41_uart.md R132). -/

namespace Sys2Proof.Machine

variable {s t : State} {kind : WaitKind} {cmd : Instr} {w : Waiting}

/-- Settles O30: the guards of `UART_WRITE` and of the seven TWI commands (R222). -/
theorem commandBeforeBeginFaults : Obligations.CommandBeforeBeginFaults := by
  intro s idle faulted
  refine ⟨fun closed data => exec_uartWrite_of_not_begun idle closed, fun closed => ?_⟩
  have guarded (body : State → Except Fault State) : hostCommand (ifTwiBegun body) s = .next faulted :=
    hostCommand_ifTwiBegun_of_not_begun idle closed body
  exact ⟨fun _ => guarded _, fun _ => guarded _, fun _ => guarded _, fun _ _ => guarded _, guarded _, guarded _,
    guarded _⟩

/-! ### The three TWI waits -/

/-- The waits of the `TWI` unit, each with its command (R24). -/
inductive TwiWait : WaitKind → Instr → Waiting → Prop
  | composing (addr : Byte) : TwiWait .tBeginTx (.twiBeginTx addr) (twiBeginTxWaiting addr)
  | requesting (addr : Byte) (count : Nat) :
      TwiWait .tRequest (.twiRequest addr count) (twiRequestWaiting addr count)
  | counting : TwiWait .tAvailable .twiAvailable twiAvailableWaiting

theorem TwiWait.waitingOf_eq (h : TwiWait kind cmd w) : waitingOf kind cmd = some w := by
  cases h <;> rfl

theorem TwiWait.kind_eq (h : TwiWait kind cmd w) : w.kind = kind := by
  cases h <;> rfl

theorem TwiWait.retry_eq (h : TwiWait kind cmd w) : w.retry = twiRetry := by
  cases h <;> rfl

theorem TwiWait.exec_of_begun (h : TwiWait kind cmd w) (idle : s.hstate = .idle) (begun : s.twi.begun = true) :
    exec cmd s = toOutcome (w.issue cmd s) := by
  cases h <;> exact hostCommand_ifTwiBegun_of_begun idle begun _

theorem State.setHost_self {k : HostState} (h : s.hstate = k) : s.setHost k = s := by
  subst h
  rfl

/-- A TWI wait that is over: the issue step and the poll step both complete with the post-part (R118, R121). -/
theorem TwiWait.completes (h : TwiWait kind cmd w) (ready : ∀ e, w.ready e s = true) (post : w.post s = .ok t)
    (host : t.hstate = s.hstate) :
    (s.hstate = .idle → s.twi.begun = true → exec cmd s = .next (t.setHost .idle)) ∧
      ∀ e, s.hstate = .wait kind e cmd → pollHost s = .next (t.setHost .idle) := by
  refine ⟨fun idle begun => ?_, fun e wait => pollHost_of_ready wait h.waitingOf_eq (ready e) post⟩
  rw [h.exec_of_begun idle begun, Waiting.issue_of_ready (ready s.ie), post, State.setHost_self (host.trans idle)]
  rfl

/-- A TWI wait that is not over: the issue step and the poll step both retry (R119, R120). -/
theorem TwiWait.retries {e : Bool} (h : TwiWait kind cmd w) (ready : ¬ w.ready e s = true)
    (retry : twiRetry e s = .ok t) :
    (s.hstate = .idle → s.twi.begun = true → s.ie = e → exec cmd s = .next (t.setHost (.wait kind e cmd))) ∧
      (s.hstate = .wait kind e cmd → pollHost s = .next t) := by
  rw [← h.retry_eq] at retry
  refine ⟨fun idle begun entry => ?_, fun wait => pollHost_of_not_ready wait h.waitingOf_eq ready retry⟩
  rw [h.exec_of_begun idle begun, Waiting.issue_of_not_ready entry ready retry, h.kind_eq]
  rfl

/-! ### Operands -/

theorem validAddr_iff {addr : Byte} : validAddr addr = true ↔ addr ≤ 0x7F := by
  rw [validAddr, decide_eq_true_iff, BitVec.le_def]
  rfl

theorem validAddr_eq_false {addr : Byte} (h : 0x7F < addr) : validAddr addr = false :=
  Bool.eq_false_iff.2 fun valid => BitVec.not_lt.2 (validAddr_iff.1 valid) h

/-- The address byte of a write is the address above a clear bit (R171). -/
theorem slaWrite_eq (addr : Byte) : slaWrite addr = addr <<< 1 := by
  ext i lt
  rw [slaWrite, BitVec.getElem_append]
  cases i with
  | zero => simp
  | succ i => simp [BitVec.getLsbD_eq_getElem (Nat.lt_of_succ_lt lt)]

/-- The address byte of a read is the address above a set bit (R174). -/
theorem slaRead_eq (addr : Byte) : slaRead addr = (addr <<< 1) ||| 1 := by
  ext i lt
  rw [slaRead, BitVec.getElem_append]
  cases i with
  | zero => simp
  | succ i => simp [BitVec.getLsbD_eq_getElem (Nat.lt_of_succ_lt lt)]

/-! ### `TWI_BEGIN_TX` -/

theorem twiBeginTxPost_of_valid {addr : Byte} (valid : addr ≤ 0x7F) :
    (twiBeginTxWaiting addr).post s = .ok ((s.setTwi (s.twi.compose addr)).respond (respStatus .ok)) :=
  if_pos (validAddr_iff.2 valid)

theorem twiBeginTxPost_of_invalid {addr : Byte} (invalid : 0x7F < addr) :
    (twiBeginTxWaiting addr).post s = .ok (s.respond (respStatus .invalidAddress)) :=
  if_neg (Bool.eq_false_iff.1 (validAddr_eq_false invalid))

/-- Settles O32: on an idle bus the wait is over, and its post-part tests the address. -/
theorem twiBeginTxStartsComposing : Obligations.TwiBeginTxStartsComposing := by
  intro addr s free composing refused
  have wait := TwiWait.composing addr
  have composes (valid : addr ≤ 0x7F) := wait.completes (fun _ => free) (twiBeginTxPost_of_valid (s := s) valid) rfl
  have refuses (invalid : 0x7F < addr) :=
    wait.completes (fun _ => free) (twiBeginTxPost_of_invalid (s := s) invalid) rfl
  have started : ((s.setTwi (s.twi.compose addr)).respond (respStatus .ok)).setHost .idle = composing := by
    rw [Twi.compose, slaWrite_eq]
    rfl
  rw [started] at composes
  exact ⟨fun idle begun valid => (composes valid).1 idle begun,
    fun idle begun invalid => (refuses invalid).1 idle begun,
    fun e polled => ⟨fun valid => (composes valid).2 e polled, fun invalid => (refuses invalid).2 e polled⟩⟩

/-! ### `TWI_REQUEST` -/

theorem twiRequestPost_of_badAddress {addr : Byte} {count : Nat} (invalid : 0x7F < addr) :
    (twiRequestWaiting addr count).post s = .ok (s.respond (respStatus .invalidAddress)) :=
  if_pos (by rw [validAddr_eq_false invalid]; rfl)

theorem twiRequestPost_of_badCount {addr : Byte} {count : Nat} (valid : addr ≤ 0x7F)
    (bad : count = 0 ∨ s.twi.cap < count) :
    (twiRequestWaiting addr count).post s = .ok (s.respond (respStatus .invalidCount)) :=
  (if_neg (by rw [validAddr_iff.2 valid]; nofun)).trans (if_pos bad)

theorem twiRequestPost_of_legal {addr : Byte} {count : Nat} (valid : addr ≤ 0x7F) (pos : 0 < count)
    (le : count ≤ s.twi.cap) : (twiRequestWaiting addr count).post s =
      .ok ((s.setTwi (s.twi.launchRead addr count)).respond (respStatus .ok)) :=
  (if_neg (by rw [validAddr_iff.2 valid]; nofun)).trans (if_neg (not_or.2 ⟨pos.ne', le.not_gt⟩))

theorem Twi.launchRead_eq (addr : Byte) (count : Nat) (t : Twi) :
    t.launchRead addr count = { t with
      sendbuf := t.sendbuf.clear t.cap, recvbuf := t.recvbuf.clear t.cap
      srs := count, sla := (addr <<< 1) ||| 1, txActive := false, tstate := .addressPending
      twiOut := t.twiOut ++ [.start ((addr <<< 1) ||| 1)]
      eng := .addrR, busIdle := false, wif := false, rif := false } := by
  rw [Twi.launchRead, Twi.addrStart, addrEng_slaRead, slaRead_eq]
  rfl

/-- Settles O35: on an idle bus the wait is over, and its post-part tests the address, then the count. -/
theorem twiRequestStartsRead : Obligations.TwiRequestStartsRead := by
  intro addr count s free started answers
  have wait := TwiWait.requesting addr count
  have badAddress (invalid : 0x7F < addr) :=
    wait.completes (fun _ => free) (twiRequestPost_of_badAddress (s := s) (count := count) invalid) rfl
  have badCount (valid : addr ≤ 0x7F) (bad : count = 0 ∨ s.twi.cap < count) :=
    wait.completes (fun _ => free) (twiRequestPost_of_badCount valid bad) rfl
  have starts (valid : addr ≤ 0x7F) (pos : 0 < count) (le : count ≤ s.twi.cap) :=
    wait.completes (fun _ => free) (twiRequestPost_of_legal valid pos le) rfl
  rw [Twi.launchRead_eq] at starts
  refine ⟨fun idle begun => ⟨fun invalid => ?_, fun valid bad => ?_, fun valid pos le => ?_⟩,
    fun e polled => ⟨fun invalid => ?_, fun valid bad => ?_, fun valid pos le => ?_⟩⟩
  · exact (badAddress invalid).1 idle begun
  · exact (badCount valid bad).1 idle begun
  · exact (starts valid pos le).1 idle begun
  · exact (badAddress invalid).2 e polled
  · exact (badCount valid bad).2 e polled
  · exact (starts valid pos le).2 e polled

/-! ### `TWI_AVAILABLE` -/

theorem TwiBuffer.remaining_eq (tb : TwiBuffer) :
    tb.remaining = if tb.mode = .drain then tb.lim - tb.pos else 0 := by
  cases h : tb.mode with
  | fill => rw [TwiBuffer.remaining_of_fill h, if_neg nofun]
  | drain => rw [TwiBuffer.remaining_of_drain h, if_pos rfl]

/-- Settles O36: with no byte expected the wait is over, and its post-part answers `Readable`. -/
theorem twiAvailableCountsReadable : Obligations.TwiAvailableCountsReadable := by
  intro s done counted
  have answers := TwiWait.counting.completes (s := s) (fun _ => beq_iff_eq.2 done) rfl rfl
  rw [respCount, TwiBuffer.remaining_eq] at answers
  exact answers

/-! ### The retry of the TWI waits -/

/-- With interrupts on, or with no flag set, the retry does nothing (R119, R120). -/
theorem twiRetry_of_nothing {e : Bool} (h : e = true ∨ s.twi.anyFlag = false) : twiRetry e s = .ok s := by
  rcases h with rfl | noFlag
  · rfl
  · rw [twiRetry, replayTwi, noFlag, if_neg Bool.false_ne_true, ite_self]

/-- Without interrupts, and with a flag set, it is a run of the handler's body (R120). -/
theorem twiRetry_of_flag {n : Twi} (flag : s.twi.anyFlag = true) (run : isrTwi s.twi = .ok n) :
    twiRetry false s = .ok (s.setTwi n) := by
  rw [twiRetry, if_neg Bool.false_ne_true, replayTwi, if_pos flag, runHandler, run, ok_bind]

/-- The conditions under which R119 and R120 speak of a TWI wait are those under which it is not over. -/
theorem TwiWait.of_pending {kind : WaitKind} {cmd : Instr}
    (h : (∃ addr, kind = .tBeginTx ∧ cmd = .twiBeginTx addr ∧ s.twi.busIdle = false) ∨
      (∃ addr count, kind = .tRequest ∧ cmd = .twiRequest addr count ∧ s.twi.busIdle = false) ∨
      (kind = .tAvailable ∧ cmd = .twiAvailable ∧ s.twi.srs ≠ 0)) :
    ∃ w, TwiWait kind cmd w ∧ ∀ e, ¬ w.ready e s = true := by
  rcases h with ⟨addr, rfl, rfl, busy⟩ | ⟨addr, count, rfl, rfl, busy⟩ | ⟨rfl, rfl, expected⟩
  · exact ⟨_, .composing addr, fun _ => Bool.eq_false_iff.1 busy⟩
  · exact ⟨_, .requesting addr count, fun _ => Bool.eq_false_iff.1 busy⟩
  · exact ⟨_, .counting, fun _ => mt beq_iff_eq.1 expected⟩

/-- Settles O37: the issue step and the poll step both do the retry of `twiRetry_of_nothing` and
`twiRetry_of_flag`. -/
theorem twiWaitsReplayHandler : Obligations.TwiWaitsReplayHandler := by
  intro kind cmd s pending flag
  obtain ⟨w, wait, notReady⟩ := TwiWait.of_pending pending
  have quiet {e : Bool} (nothing : e = true ∨ flag = false) :=
    wait.retries (notReady e) (twiRetry_of_nothing nothing)
  have replays {n : Twi} (set : flag = true) (run : isrTwi s.twi = .ok n) :=
    wait.retries (notReady false) (twiRetry_of_flag set run)
  refine ⟨fun idle begun => ⟨fun nothing => ?_, fun off set n run => ?_⟩, fun e polled =>
    ⟨fun nothing => ?_, fun off set n run => ?_⟩⟩
  · exact (quiet nothing).1 idle begun rfl
  · exact (replays set run).1 idle begun off
  · exact (quiet nothing).2 polled
  · exact (replays set run).2 (off ▸ polled)

/-! ### A write to a full ring with interrupts off -/

/-- Moving a byte out of a full ring makes room in it (R67, R70). -/
theorem RingBuffer.room_of_full {id : MemId} {n : Nat} {rb : RingBuffer} (wf : rb.Wf id n) (two : 2 ≤ n)
    (full : rb.full n = true) :
    rb.empty = false ∧ RingBuffer.full { rb with tail := (rb.tail + 1) % n } n = false := by
  have occ := (full_iff_occ wf.head_lt wf.tail_lt).1 full
  have held : rb.empty = false := by
    rw [Bool.eq_false_iff, Ne, empty_iff_occ wf.head_lt wf.tail_lt, occ]
    omega
  refine ⟨held, (full_eq_false_iff_length (wf.set_tail (Nat.mod_lt _ (by omega)))).2 ?_⟩
  have length := congrArg List.length (contents_eq_cons wf held)
  rw [length_contents, occ, List.length_cons] at length
  omega

/-- Settles O21: the issue step's retry moves the oldest byte to the hardware, so that the poll finds room. -/
theorem writeCompletesWithInterruptsOff : Obligations.WriteCompletesWithInterruptsOff := by
  intro data s idle off begun on wf full free permitted
  obtain ⟨held, room⟩ := RingBuffer.room_of_full wf (Nat.le_add_left 2 _) full
  have go : ctsStop s.cfg s.uart = false := Bool.and_eq_false_iff.2 permitted
  have run := isrUartDre_of_moving go held wf.tail_lt
  obtain ⟨registers, out, txb⟩ := Uart.hwTxWrite_registers
    (u := { s.uart with txb := { s.uart.txb with tail := (s.uart.txb.tail + 1) % s.cfg.nTx } }) on free
    (s.uart.txb.storage.byteAt .txb 0 s.uart.txb.tail)
  generalize Uart.hwTxWrite _ _ = u at run registers out txb
  have wf' : u.txb.Wf .txb s.cfg.nTx := txb ▸ wf.set_tail (Nat.mod_lt _ (Nat.succ_pos _))
  have room' : u.txb.full s.cfg.nTx = false := txb ▸ room
  have noRoom : ¬ (s.uart.txb.head + 1) % s.cfg.nTx ≠ s.uart.txb.tail :=
    mt RingBuffer.full_eq_false_iff.2 (Bool.not_eq_false _ ▸ full)
  have slot := RingBuffer.full_eq_false_iff.1 room'
  refine ⟨_, _, exec_uartWrite_of_full idle begun noRoom off (replayDre_of_run free run), rfl,
    pollHost_of_ready rfl rfl (uartWriteWaiting_ready_iff.2 slot) (uartWritePost_of_room wf' slot data),
    rfl, rfl, off, ?_, ?_, out⟩
  · rw [RingBuffer.contents_eq_cons wf held]
    exact (RingBuffer.contents_append wf' room' data).trans (by rw [txb]; rfl)
  · rw [RingBuffer.contents_eq_cons wf held]
    exact registers

end Sys2Proof.Machine
end
